-- ==== Sys2Proof/Word.lean ====
section
/-! DEFINITION. The plain words of the 1640: bytes, texts, the index types of its tables, and the sets the part keeps as bytes (R186). -/

namespace Sys2Proof

/-- One byte of a frame (R105, R172). -/
abbrev Byte := BitVec 8

/-- A text field: its character codes, without padding (R186). -/
abbrev Text := List Byte

/-- A cell number, also the number of its line, port and load context: 0 to 15 (R43). -/
abbrev CellId := Fin 16

/-- A lot table slot: 0 to 127 (R19). -/
abbrev LotSlot := Fin 128

/-- A product slot, the product index of a lot: 0 to 15 (R1). -/
abbrev ProductIx := Fin 16

/-- A shipment table slot: 0 to 7 (R161). -/
abbrev ShipSlot := Fin 8

/-- A site set in the form of R186: bit k is 1 when site k is a member. -/
abbrev SiteSet := BitVec 8

/-- A bin set in the form of R186: bit b − 1 is 1 when hard bin b is a member. -/
abbrev BinSet := BitVec 16

/-- A class set in the form of R186: bit 0 COLD, bit 1 ROOM, bit 2 HOT. -/
abbrev ClassSet := BitVec 8

/-- The top value of the 32-bit counters and of floor time (R19, R43, R180). -/
abbrev top32 : Nat := 4294967295

/-- Site k is a member of the set. -/
def SiteSet.has (x : SiteSet) (k : Nat) : Bool := x.getLsbD k

/-- The set with site k added. -/
def SiteSet.add (x : SiteSet) (k : Nat) : SiteSet := x ||| (1#8 <<< k)

/-- The set with site k taken out. -/
def SiteSet.drop (x : SiteSet) (k : Nat) : SiteSet := x &&& ~~~(1#8 <<< k)

/-- The number of members. -/
def SiteSet.size (x : SiteSet) : Nat := ((List.range 8).filter x.has).length

/-- Hard bin b is a member of the set. -/
def BinSet.has (x : BinSet) (b : Nat) : Bool := 1 ≤ b && x.getLsbD (b - 1)

/-- The set with hard bin b added (b at least 1). -/
def BinSet.add (x : BinSet) (b : Nat) : BinSet := x ||| (1#16 <<< (b - 1))

/-- The hard bins 1 to 16 that are members, in ascending order. -/
def BinSet.bins (x : BinSet) : List Nat := (List.range 17).filter x.has

/-- A count raised by one that stays at its top value. -/
def satInc (top n : Nat) : Nat := if n < top then n + 1 else n

/-- A count raised by one several times, that stays at its top value. -/
def satAdd (top n : Nat) : Nat → Nat
  | 0 => n
  | k + 1 => satAdd top (satInc top n) k

/-- Sixteen counts, bin 1 first (R123). -/
abbrev Counts := Vector Nat 16

/-- Sixteen zero counts. -/
def Counts.zero : Counts := Vector.replicate 16 0

/-- The count of hard bin b, 0 for a bin outside 1 to 16. -/
def Counts.bin (c : Counts) (b : Nat) : Nat := if b = 0 then 0 else c.toList.getD (b - 1) 0

/-- The sum of the sixteen counts. -/
def Counts.sum (c : Counts) : Nat := c.toList.sum

/-- The counts with hard bin b raised by one. -/
def Counts.raise (c : Counts) (b : Nat) : Counts :=
  if h : 1 ≤ b ∧ b ≤ 16 then c.set (b - 1) (c.bin b + 1) (by omega) else c

end Sys2Proof
end

