-- ==== Sys2Proof/Records.lean ====
section
/-! DEFINITION. The record types that both the commands and the state hold: product and catalog records, portions, holds, the lot step record, step summaries and the lot context record. -/

namespace Sys2Proof.Machine

open Sys2Proof

/-- Temperature classes (R2). -/
inductive TempClass where
  | cold | room | hot
  deriving DecidableEq, Repr

/-- A mask value (R3). -/
inductive Mask where
  | unmasked | masked
  deriving DecidableEq, Repr

/-- The mode of a monitored bin entry (R3). -/
inductive BinMode where
  | static | learned
  deriving DecidableEq, Repr

/-- The state of a catalog entry (R12). -/
inductive CatState where
  | approved | suspended
  deriving DecidableEq, Repr

/-- The seven hold reasons (R28). -/
inductive HoldReason where
  | yield | binlimit | check | count | program | engineering | qa
  deriving DecidableEq, Repr

/-- The four dispositions (R31). -/
inductive Disposition where
  | release | releaseExclude | retest | scrap
  deriving DecidableEq, Repr

/-- The outcome a QA-RESULT names (R160). -/
inductive QaOutcome where
  | pass | fail
  deriving DecidableEq, Repr

/-- The check a LIMIT-MASK names: the yield check, or a monitored bin by its number (R9). -/
inductive CheckSel where
  | yield
  | bin (b : Nat)
  deriving DecidableEq, Repr

/-- A pass of a step (R22). -/
inductive Pass where
  | first | retest
  deriving DecidableEq, Repr

/-- The five route positions of a lot (R20). -/
inductive RoutePos where
  | stepOpen | stepHeld | qaSample | qaFailed | routeEnd
  deriving DecidableEq, Repr

/-- The ten lot states (R20): six derived, four set directly. -/
inductive LotState where
  | waiting | active | parked | qaWait | complete | released
  | closed | scrapping | scrapped | noYield
  deriving DecidableEq, Repr

/-- A monitored bin entry of a limit set (R3). -/
structure MonEntry where
  bin : Nat
  ceiling : Nat          -- S, ppm
  floor : Nat            -- Z, ppm
  mode : BinMode
  k : Nat                -- in quarters
  mask : Mask
  deriving DecidableEq, Repr

/-- A limit set (R3). -/
structure LimitSet where
  yieldFloor : Nat       -- Fy, ppm
  yieldMask : Mask
  minSample : Nat        -- M
  consecFail : Nat       -- C, 0 is off
  entries : List MonEntry
  deriving DecidableEq, Repr

/-- A step record of a route (R2). -/
structure StepRec where
  tempClass : TempClass
  program : Text
  revision : Nat
  kit : Text
  minSites : Nat
  soakTimeout : Nat
  dwell : Nat
  retestBins : BinSet
  limits : LimitSet
  deriving DecidableEq, Repr

/-- A program and its revision: the identity of a catalog entry, and what a cell has loaded (R12, R43). -/
structure ProgramRev where
  name : Text
  revision : Nat
  deriving DecidableEq, Repr

/-- The four states of a portion, with its cell field (R23). -/
inductive PortionState where
  | queued
  | pending (cell : CellId)
  | atCell (cell : CellId)
  | done
  deriving DecidableEq, Repr

/-- A portion record (R22, R23, R24): Q, T, R, L and H are assigned, tested, remaining, lost and in-handler counts. -/
structure Portion where
  number : Nat                 -- 1 to 8 first pass, 9 to 12 retest
  state : PortionState
  q : Nat
  t : Nat
  r : Nat
  l : Nat
  h : Nat
  revision : Option Nat        -- recorded revision
  placedRevs : List Nat        -- placed-revision set, ascending, no repeats
  runCount : Nat
  firstProduction : Option Nat
  endTime : Option Nat
  damaged : Nat
  deriving DecidableEq, Repr

/-- A hold record (R28). -/
structure Hold where
  reason : HoldReason
  time : Nat
  occurrences : Nat
  step : Nat
  portion : Nat
  detail : Nat
  deriving DecidableEq, Repr

/-- The four values a set limit flag holds (R123). -/
structure FlagValues where
  portion : Nat
  time : Nat
  figure : Nat
  bound : Nat
  deriving DecidableEq, Repr

/-- A waive set: the yield check and the bins 2 to 16 (R123). -/
structure WaiveSet where
  yield : Bool
  bins : BinSet
  deriving DecidableEq, Repr

/-- A lot step record of the Tally and Limit Unit (R123). `binFlags` is indexed by bin number less 1. -/
structure LotStepRec where
  first : Counts
  retest : Counts
  yieldFlag : Option FlagValues
  binFlags : Vector (Option FlagValues) 16
  waive : WaiveSet
  smallAtFinal : Bool
  deriving DecidableEq, Repr

/-- A step summary of the Release Unit (R155). -/
structure Summary where
  step : Nat
  program : Text
  retestBins : BinSet
  qs : Nat
  firstCounts : Counts
  firstT : Nat
  firstL : Nat
  retestIncluded : Bool
  rq : Nat
  retestCounts : Counts
  retestT : Nat
  retestL : Nat
  finalCounts : Counts
  finalGood : Nat
  revisions : List Nat
  yieldFlag : Option FlagValues
  binFlags : Vector (Option FlagValues) 16
  waive : WaiveSet
  smallAtFinal : Bool
  checkRaised : Bool
  deriving DecidableEq, Repr

/-- A lot context record (R40, R41): every lot record field of R19 but the registration number, with its portions and holds, its
summaries, its lot step record and its check mark; beside them the product code, and the route's program names that R41
compares (assumption 19). -/
structure LotContext where
  id : Text
  product : Nat                -- product index
  productCode : Text
  routePrograms : List Text
  priority : Nat
  startQty : Nat
  split : Nat
  stepIndex : Nat
  route : RoutePos
  retest : Bool
  state : LotState
  holds : List Hold
  baselineEligible : Bool
  small : Bool
  stepReady : Nat
  regTime : Nat
  portions : List Portion
  summaries : List Summary
  tally : LotStepRec
  checkMark : Bool
  deriving DecidableEq, Repr

/-- An empty lot step record (R123). -/
def LotStepRec.empty : LotStepRec where
  first := Counts.zero
  retest := Counts.zero
  yieldFlag := none
  binFlags := Vector.replicate 16 none
  waive := ⟨false, 0⟩
  smallAtFinal := false

end Sys2Proof.Machine
end

