-- ==== Sys2Proof/Syntax.lean ====
section
/-! DEFINITION. The commands of the 1640: one constructor for each row of spec/opcode_table.json.

A host request carries its tag first. A text is its field as it arrives: the characters, and the bytes from the first 00 hex on, which
may be left off; a trailing text is its bytes (R186). A temperature class, a mask, a class set and a bin set are their bytes, in R186's
forms, and the sites of CELL-SITES-ON the number whose bit k names site k. An enumeration whose values R186 does not list is an
`Option`: `none` stands for a byte that holds no listed value; a lot context record with such a byte anywhere is `none` as a whole. The
bodies of SITE-RESULT and GROUP-END are their bytes, and that of LOAD-DATA its cell byte, its offset and the bytes after them (R189). The bytes of a failed candidate are those that
arrived on the line, sync bytes among them (assumption 21). A number is a Nat: its wire width is a check of WellFormed.lean, its range a
check of the rule that owns it. A station frame carries the number of the cell line it arrives on. -/

namespace Sys2Proof

open Sys2Proof.Machine

/-- A monitored bin entry as a PRODUCT-DEFINE carries it, before any check (R3, R4). -/
structure MonEntryReq where
  bin : Nat
  ceiling : Nat
  floor : Nat
  mode : Option BinMode
  k : Nat
  mask : Byte
  deriving DecidableEq, Repr

/-- A step record as a PRODUCT-DEFINE carries it, with its limit set, before any check (R2, R3, R4). -/
structure StepReq where
  tempClass : Byte
  program : Text
  revision : Nat
  kit : Text
  minSites : Nat
  soakTimeout : Nat
  dwell : Nat
  retestBins : BinSet
  yieldFloor : Nat
  yieldMask : Byte
  minSample : Nat
  consecFail : Nat
  entries : List MonEntryReq
  deriving DecidableEq, Repr

/-- The body of a PRODUCT-DEFINE (R4). -/
structure ProductReq where
  code : Text
  routeLength : Nat
  steps : List StepReq
  qaSample : Nat
  deriving DecidableEq, Repr

/-- The host request kinds, in the order of R174's table. -/
inductive RequestKind where
  | productDefine | productDelete | productQuery | limitMask | productRevise
  | catalogAdd | catalogState | catalogRemove | catalogQuery
  | lotRegister | lotDispose | lotHold | lotPriority | lotQuery | lotDelete | lotExport | lotImport
  | cellConfigure | cellQuery | cellPause | cellResume | cellDown | cellUp | cellClear | cellSitesOn | cellContactor
  | dispatchQuery | dispatchAging
  | loadData
  | cellErrReset
  | tallyQuery | baselineQuery | baselineSet
  | qaResult | shipOpen | shipAdd | shipRemove | shipCheck | shipAccept | shipCancel | shipQuery | summaryQuery
  | identify | setTime | floorStatus | floorReset
  deriving DecidableEq, Repr

/-- Why the Host Link Unit refuses a proved frame itself (R174): its kind byte is no request kind, or it is a request kind whose
tag is 0, whose body length is outside the kind's range, or whose unused bits are not all zero. -/
inductive FrameFault where
  | unknownKind (kind : Byte)
  | badForm (kind : RequestKind)
  deriving DecidableEq, Repr

/-- What gives a cold reset (R184, R190): power-on, or RESET_N held low for that many nanoseconds. -/
inductive ResetCause where
  | powerOn
  | resetPin (nanoseconds : Nat)
  deriving DecidableEq, Repr

/-- The kind of a proved cell frame that is malformed and not a result (R108): one of the other station kinds of R109, or a
kind byte that is none of them. -/
inductive ControlKind where
  | hello | kit | purged | soakReached | status | jam | jamClear | runEnd | blockAck | blockNak | imageCheck
  | unknown (kind : Byte)
  deriving DecidableEq, Repr

/-- The commands: host requests, host line and clock events, station frames, port events and timer expiries. -/
inductive Instr where
  -- Floor Records Store (Chapter 1)
  | productDefine (tag : BitVec 16) (req : ProductReq)
  | productDelete (tag : BitVec 16) (code : Text)
  | productQuery (tag : BitVec 16) (code : Text)
  | limitMask (tag : BitVec 16) (code : Text) (step : Nat) (check : CheckSel) (mask : Byte)
  | productRevise (tag : BitVec 16) (code : Text) (step revision : Nat)
  | catalogAdd (tag : BitVec 16) (name : Text) (revision length : Nat) (check : BitVec 32)
  | catalogState (tag : BitVec 16) (name : Text) (revision : Nat) (st : Option CatState)
  | catalogRemove (tag : BitVec 16) (name : Text) (revision : Nat)
  | catalogQuery (tag : BitVec 16) (entry : Option ProgramRev)
  -- Lot Manager (Chapter 2)
  | lotRegister (tag : BitVec 16) (id code : Text) (priority startQty split : Nat)
  | lotDispose (tag : BitVec 16) (id : Text) (reason : Option HoldReason) (disposition : Option Disposition)
  | lotHold (tag : BitVec 16) (id : Text)
  | lotPriority (tag : BitVec 16) (id : Text) (priority : Nat)
  | lotQuery (tag : BitVec 16) (id : Text)
  | lotDelete (tag : BitVec 16) (id : Text)
  | lotExport (tag : BitVec 16) (id : Text)
  | lotImport (tag : BitVec 16) (context : Option LotContext)
  -- Cell Manager (Chapter 3)
  | cellConfigure (tag : BitVec 16) (cell : Nat) (name : Text) (speed limit lifetime interval : Nat)
  | cellQuery (tag : BitVec 16) (cell : Nat)
  | cellPause (tag : BitVec 16) (cell : Nat)
  | cellResume (tag : BitVec 16) (cell : Nat)
  | cellDown (tag : BitVec 16) (cell : Nat)
  | cellUp (tag : BitVec 16) (cell : Nat)
  | cellClear (tag : BitVec 16) (cell : Nat)
  | cellSitesOn (tag : BitVec 16) (cell sites : Nat)
  | cellContactor (tag : BitVec 16) (cell : Nat) (limit : Option Nat) (resetCounter : Bool)
  -- Dispatcher (Chapter 4)
  | dispatchQuery (tag : BitVec 16) (start : Nat)
  | dispatchAging (tag : BitVec 16) (limit : Nat)
  -- Image Loader and Cell Ports (Chapters 5 and 6)
  | loadData (tag : BitVec 16) (cell : Byte) (offset : BitVec 24) (data : List Byte)
  | cellErrReset (tag : BitVec 16) (cell : Nat)
  -- Tally and Limit Unit (Chapters 7 and 8)
  | tallyQuery (tag : BitVec 16) (id : Text)
  | baselineQuery (tag : BitVec 16) (code : Text) (step : Nat)
  | baselineSet (tag : BitVec 16) (code : Text) (step bin n mean deviation : Nat)
  -- Release Unit (Chapter 9)
  | qaResult (tag : BitVec 16) (id : Text) (outcome : Option QaOutcome)
  | shipOpen (tag : BitVec 16) (ship code : Text)
  | shipAdd (tag : BitVec 16) (ship lot : Text)
  | shipRemove (tag : BitVec 16) (ship lot : Text)
  | shipCheck (tag : BitVec 16) (ship : Text)
  | shipAccept (tag : BitVec 16) (ticket : Nat)
  | shipCancel (tag : BitVec 16) (ship : Text)
  | shipQuery (tag : BitVec 16) (ship : Option Text)
  | summaryQuery (tag : BitVec 16) (id : Text) (step : Nat)
  -- Host Link Unit and Floor Clock (Chapter 10)
  | identify (tag : BitVec 16)
  | setTime (tag : BitVec 16) (time : BitVec 32)
  | floorStatus (tag : BitVec 16)
  | floorReset (tag : BitVec 16)
  | unknownKind (tag : BitVec 16) (fault : FrameFault)
  | hostCandidateFail (bytes : List Byte)
  | hostLineBreak
  | hostFrameSent
  | floorTimeTick
  | coldReset (cause : ResetCause) (strap1 strap0 : Bool)
  -- Station frames (Chapters 3, 5 and 6)
  | hello (cell : CellId) (name : Text) (sites : Nat) (classes : ClassSet) (kit : Text)
  | kit (cell : CellId) (code : Text)
  | purged (cell : CellId) (count : BitVec 16)
  | soakReached (cell : CellId)
  | status (cell : CellId)
  | siteResult (cell : CellId) (body : List Byte)
  | groupEnd (cell : CellId) (body : List Byte)
  | jam (cell : CellId)
  | jamClear (cell : CellId)
  | runEnd (cell : CellId) (tested : BitVec 16) (check : BitVec 16)
  | blockAck (cell : CellId) (offset : BitVec 24)
  | blockNak (cell : CellId) (offset : BitVec 24)
  | imageCheck (cell : CellId) (check : BitVec 32)
  | malformed (cell : CellId) (kind : ControlKind)
  -- Port and timer events (Chapters 3, 5 and 6)
  | cellCandidateFail (cell : CellId) (bytes : List Byte)
  | lineBreak (cell : CellId)
  | silence (cell : CellId)
  | cellFrameSent (cell : CellId)
  | intakeRecordTaken (cell : CellId)
  | purgeTimeout (cell : CellId)
  | soakTimeout (cell : CellId)
  | dwellExpiry (cell : CellId)
  | dataTimeout (cell : CellId) (offset : Nat)
  | ackTimeout (cell : CellId) (offset : Nat)
  | checkTimeout (cell : CellId)
  deriving DecidableEq, Repr

end Sys2Proof
end

