-- ==== Sys2Proof/Decode.lean ====
section
/-! DEFINITION. The reading of a word by the bits of the command table. No row of spec/opcode_table.json gives any bits. -/

namespace Sys2Proof

/-- The command that a word of so many bits spells: none, since no row of the table gives bits (assumption 8). -/
def decodeTableWord (_nbits _w : Nat) : Option Instr := none

end Sys2Proof
end

