-- ==== Sys2Proof/Machine/State.lean ====
section
/-! DEFINITION. The state of the 1640: the records of its ten blocks, the two ends of its seventeen lines, and the queue of commands
that wait. Everything is plain data. -/

namespace Sys2Proof.Machine

open Sys2Proof

/-! ### Floor Records Store -/

/-- A product record (R1): a slot that holds none is FREE, one whose live-lot count is 0 is DEFINED, any other is IN-USE. -/
structure Product where
  code : Text
  steps : List StepRec
  qaSample : Nat
  live : Nat
  deriving DecidableEq, Repr

/-- A program catalog entry (R12). -/
structure CatEntry where
  name : Text
  revision : Nat
  length : Nat
  check : BitVec 32
  state : CatState
  deriving DecidableEq, Repr

/-! ### Lot Manager -/

/-- A lot record (R19). `state` is the lot's state as last computed by R20 or set directly. -/
structure Lot where
  id : Text
  product : ProductIx
  priority : Nat
  startQty : Nat
  split : Nat
  stepIndex : Nat
  route : RoutePos
  retest : Bool
  state : LotState
  holds : List Hold
  baselineEligible : Bool
  small : Bool
  stepReady : Nat
  regTime : Nat
  regNo : Nat
  portions : List Portion
  deriving DecidableEq, Repr

/-! ### Dispatcher -/

/-- A wait-list entry (R70). -/
structure WaitEntry where
  lot : LotSlot
  priority : Nat
  stepReady : Nat
  skip : Nat
  deriving DecidableEq, Repr

/-! ### Cell Manager -/

/-- The ten states of a cell (R44). -/
inductive CellState where
  | offline | purging | idle | reserved | loading | soaking | running | paused | draining | down
  deriving DecidableEq, Repr

/-- The pause reasons (R53). -/
inductive PauseReason where
  | hold | jam | operator
  deriving DecidableEq, Repr

/-- A pause-reason set (R43). -/
structure PauseSet where
  hold : Bool
  jam : Bool
  operator : Bool
  deriving DecidableEq, Repr

/-- Fault codes of a cell (R43). -/
inductive FaultCode where
  | none | soak | purge | load
  deriving DecidableEq, Repr

/-- The portion a slot of a cell holds (R43). -/
structure PortionRef where
  lot : LotSlot
  portion : Nat
  deriving DecidableEq, Repr

/-- A cell record with the Cell Manager's three timers (R43). A timer that runs holds its period in seconds. -/
structure Cell where
  configured : Bool
  stationName : Option Text
  speed : Nat
  linkUp : Bool
  siteCount : Option Nat
  classes : Option ClassSet
  kit : Option Text
  program : Option ProgramRev
  siteOff : SiteSet
  consec : Vector Nat 8
  state : CellState
  pause : PauseSet
  cleared : Bool
  current : Option PortionRef
  pendingSlot : Option PortionRef
  runStarted : Bool
  downAfterPurge : Bool
  runTested : Nat
  lifetime : Nat
  contactorLimit : Nat
  maintenanceDue : Bool
  loadFailures : Nat
  tallyInterval : Nat
  fault : FaultCode
  purgeTimer : Option Nat
  soakTimer : Option Nat
  dwellTimer : Option Nat
  deriving DecidableEq, Repr

/-! ### Image Loader -/

/-- The states of a load context (R87). -/
inductive LoadState where
  | idle | wanting | relaying | verifying | done | failed
  deriving DecidableEq, Repr

/-- The errors a load may end with (R87). -/
inductive LoadError where
  | source | transfer | timeout | suspended | aborted
  deriving DecidableEq, Repr

/-- A load context (R87). A data timer runs for each outstanding want and an acknowledge timer for each block in flight; the
buffers held are always the wants plus the blocks in flight. -/
structure Load where
  program : Option ProgramRev
  length : Nat
  catalogCheck : Option (BitVec 32)
  nextWant : Nat
  wants : List Nat
  inFlight : List Nat
  relayed : Nat
  crc : BitVec 32
  relayedCheck : Option (BitVec 32)
  stationCheck : Option (BitVec 32)
  state : LoadState
  error : Option LoadError
  checkTimer : Bool
  deriving DecidableEq, Repr

/-! ### Cell Ports -/

/-- A receiver: in step or hunting, and the bytes collected after a sync byte while a candidate is open (R107, R173). A candidate
leaves the mark as its sync byte found it. -/
structure Receiver where
  inStep : Bool
  candidate : Option (List Byte)
  deriving DecidableEq, Repr

/-- The two result kinds that enter an intake queue (R111). -/
inductive RecordKind where
  | siteResult | groupEnd
  deriving DecidableEq, Repr

/-- The status an intake record gets at its arrival (R111). -/
inductive RecordStatus where
  | malformed | stray | setupLate | siteBad | dupSite | ok
  deriving DecidableEq, Repr

/-- The marks a record may carry (R111, R112), kept in the order their frames arrived. -/
inductive RecordMark where
  | jamFollows | endFollows
  deriving DecidableEq, Repr

/-- An intake record (R111): for a SITE-RESULT `site` and `bin`, for a GROUP-END `site` holds its site count. -/
structure IntakeRecord where
  kind : RecordKind
  touchdown : BitVec 16
  site : Byte
  bin : Byte
  flags : Byte
  status : RecordStatus
  marks : List RecordMark
  deriving DecidableEq, Repr

/-- The six sticky link flags (R116). -/
structure LinkFlags where
  seqGap : Bool
  siteBad : Bool
  dupSite : Bool
  overrun : Bool
  setupLate : Bool
  stray : Bool
  deriving DecidableEq, Repr

/-- Part-to-station frames with their fields (R109). -/
inductive PartFrame where
  | purge
  | soak (c : TempClass)
  | start (lot : Text) (step portion quantity : Nat) (sites : SiteSet) (run : Nat)
  | pause | resume | stop | abort
  | siteOff (site : Nat)
  | imageBlock (offset : Nat) (data : List Byte)
  | imageEnd (length : Nat) (check : BitVec 32)
  | imageDiscard
  deriving DecidableEq, Repr

/-- A held RUN-END (R120). -/
structure HeldRunEnd where
  tested : BitVec 16
  check : BitVec 16
  deriving DecidableEq, Repr

/-- The state of a cell port (Chapter 6). `group` keeps at most 8 results, `groupCount` counts those beyond too (R114). -/
structure Port where
  rx : Receiver
  tx : Option PartFrame
  txList : List PartFrame
  silence : Option Nat
  queue : List IntakeRecord
  runOpen : Bool
  productionArrived : Bool
  arrival : SiteSet
  heldRunEnd : Option HeldRunEnd
  group : List IntakeRecord
  groupCount : Nat
  lastTouchdown : Option (BitVec 16)
  resultCheck : BitVec 16
  flags : LinkFlags
  deriving DecidableEq, Repr

/-! ### Tally and Limit Unit -/

/-- A baseline (R144). -/
structure Baseline where
  n : Nat
  mean : Nat
  dev : Nat
  deriving DecidableEq, Repr

/-! ### Release Unit -/

/-- The states of a shipment (R161). -/
inductive ShipState where
  | open | checking | released
  deriving DecidableEq, Repr

/-- A shipment record (R161). A member is marked exactly when its position is below the progress index. -/
structure Shipment where
  id : Text
  product : ProductIx
  state : ShipState
  members : List LotSlot
  progress : Nat
  ticket : Option Nat
  deriving DecidableEq, Repr

/-- A ticket record (R165). -/
structure Ticket where
  number : Nat
  shipment : Text
  product : Text
  lots : Nat
  total : Nat
  time : Nat
  deriving DecidableEq, Repr

/-! ### Replies and reports -/

/-- The reasons of a refused reply (R177). -/
inductive Reason where
  | unknownKind | badField | notFound | tableFull | inUse | wrongState | duplicate | offset | queueFull
  deriving DecidableEq, Repr

/-- The status of a reply (R177). -/
inductive Status where
  | ok | incomplete | refused (r : Reason)
  deriving DecidableEq, Repr

/-- The class of an evaluation (R130). -/
inductive EvalClass where
  | empty | small | full
  deriving DecidableEq, Repr

/-- The marking of a LIMIT report (R134). -/
inductive Marking where
  | held | masked | waived
  deriving DecidableEq, Repr

/-- The product record as a reply carries it (R5, R8). -/
structure ProductView where
  code : Text
  steps : List StepRec
  qaSample : Nat
  deriving DecidableEq, Repr

/-- A slot of a cell as CELL-QUERY shows it: lot id and portion number (R68). -/
structure SlotView where
  lot : Option Text
  portion : Nat
  deriving DecidableEq, Repr

/-- What a CELL-QUERY reply carries (R68, R87, R121). -/
structure CellView where
  cell : Cell
  enabled : SiteSet
  current : Option SlotView
  pendingSlot : Option SlotView
  currentH : Option Nat
  load : Option Load
  inStep : Bool
  runOpen : Bool
  queued : Nat
  runEndHeld : Bool
  lastTouchdown : Option (BitVec 16)
  resultCheck : BitVec 16
  flags : LinkFlags
  deriving DecidableEq, Repr

/-- The kind of offer a waiting cell would get (R84). -/
inductive WaitKind where
  | idle | pullAhead
  deriving DecidableEq, Repr

/-- The status DISPATCH-QUERY gives an entry (R84). -/
inductive EntryStatus where
  | held | program | eligible
  deriving DecidableEq, Repr

/-- A wait-list entry as DISPATCH-QUERY shows it (R84). -/
structure EntryView where
  lot : Text
  slot : LotSlot
  priority : Nat
  stepReady : Nat
  skip : Nat
  step : Nat
  pass : Pass
  queued : Nat
  status : EntryStatus
  deriving DecidableEq, Repr

/-- The figures of one monitored entry in a TALLY-QUERY reply (R141). -/
structure BinFigure where
  bin : Nat
  fraction : Nat
  ceiling : Nat
  mode : BinMode
  n : Nat
  mask : Mask
  deriving DecidableEq, Repr

/-- What a TALLY-QUERY reply carries (R141). -/
structure TallyView where
  step : Nat
  route : RoutePos
  tally : LotStepRec
  cls : EvalClass
  yield : Option (Nat × Nat)
  bins : List BinFigure
  deriving DecidableEq, Repr

/-- One row of a BASELINE-QUERY reply (R152). -/
structure BaselineRow where
  step : Nat
  bin : Nat
  mode : BinMode
  k : Nat
  ceiling : Nat
  floor : Nat
  baseline : Baseline
  learned : Option Nat
  effective : Nat
  deriving DecidableEq, Repr

/-- A member of a shipment as SHIP-QUERY shows it (R168). -/
structure MemberView where
  lot : Text
  state : LotState
  marked : Bool
  deriving DecidableEq, Repr

/-- A shipment as SHIP-QUERY shows it (R168). -/
structure ShipView where
  id : Text
  slot : ShipSlot
  product : Text
  state : ShipState
  progress : Nat
  ticket : Option Nat
  deriving DecidableEq, Repr

/-- What an IDENTIFY reply carries (R181). -/
structure Identity where
  family : BitVec 16
  revision : Nat
  speed : Nat
  cells : Nat
  products : Nat
  routeSteps : Nat
  monitored : Nat
  catalog : Nat
  lots : Nat
  waitList : Nat
  buffers : Nat
  bufferSize : Nat
  shipments : Nat
  members : Nat
  tickets : Nat
  reports : Nat
  replies : Nat
  fullReplies : Nat
  time : Nat
  deriving DecidableEq, Repr

/-- What a FLOOR-STATUS reply carries (R182). -/
structure FloorView where
  time : Nat
  lots : List (LotState × Nat)
  freeLots : Nat
  waitEntries : Nat
  productsFree : Nat
  productsDefined : Nat
  productsInUse : Nat
  approved : Nat
  suspended : Nat
  unconfigured : Nat
  cells : List (CellState × Nat)
  maintenanceDue : Nat
  activeLoads : Nat
  freeBuffers : Nat
  shipsOpen : Nat
  shipsChecking : Nat
  shipsReleased : Nat
  tickets : Nat
  ticketCounter : Nat
  reports : Nat
  lostReports : Nat
  lostRequests : Nat
  rxErrors : Nat
  deriving DecidableEq, Repr

/-- The fields a reply carries after its status, as the owning rule names them. -/
inductive ReplyBody where
  | none
  | product (ix : ProductIx) (record : ProductView)
  | productState (ix : ProductIx) (inUse : Bool) (live : Nat) (record : ProductView)
  | mask (m : Mask)
  | revised (old new : Nat)
  | entry (e : CatEntry)
  | entries (count : Nat) (es : List CatEntry)
  | registered (slot : LotSlot) (sizes : List Nat)
  | lotState (st : LotState)
  | occurrence (n : Nat)
  | lot (record : Lot) (shipment : Option Text)
  | context (c : LotContext)
  | imported (slot : LotSlot) (st : LotState)
  | configured (name : Text) (speed limit lifetime interval : Nat)
  | cell (view : CellView)
  | paused (st : CellState) (pause : PauseSet)
  | cellState (st : CellState)
  | sites (enabled : SiteSet)
  | contactor (limit counter : Nat) (due : Bool)
  | dispatch (aging : Nat) (pointer : CellId) (waiting : List (CellId × WaitKind)) (count : Nat) (entries : List EntryView)
  | aging (limit : Nat)
  | loadTaken (offset relayed : Nat) (oldest : Option Nat)
  | expectedOffset (offset : Nat)
  | flags (f : LinkFlags)
  | tally (view : TallyView)
  | baselines (ix : ProductIx) (rows : List BaselineRow)
  | baseline (b : Baseline) (learned : Option Nat) (effective : Nat)
  | slot (n : ShipSlot)
  | members (n : Nat)
  | checkFail (lot : Text) (condition : Nat)
  | progress (n : Nat)
  | ticket (t : Ticket)
  | accepted (number : Nat) (shipment : Text) (lots total : Nat)
  | cancelled (freed : Bool)
  | shipment (view : ShipView) (members : List MemberView)
  | shipments (ships : List ShipView) (tickets : List Ticket) (counter : Nat)
  | summary (record : Summary) (conserved : Bool) (firstFail : Option Nat)
  | identity (view : Identity)
  | time (before taken : Nat)
  | floor (view : FloorView)
  | floorReset (purging : Nat)
  deriving DecidableEq, Repr

/-- The kind a reply carries: that of its request, or the kind byte of a frame that is none (R174, R177). -/
inductive ReplyKind where
  | request (k : RequestKind)
  | other (kind : Byte)
  deriving DecidableEq, Repr

/-- What the owner of a request answers: a status and the fields it adds. -/
structure Answer where
  status : Status
  body : ReplyBody
  deriving DecidableEq, Repr

/-- An entry of the reply queue: a full reply, or a busy entry (R176). -/
inductive ReplyEntry where
  | full (tag : BitVec 16) (kind : ReplyKind) (answer : Answer)
  | busy (tag : BitVec 16) (kind : ReplyKind)
  deriving DecidableEq, Repr

/-- The causes of a LINK-ERROR report (R45, R108, R110, R113, R116), each with its detail. -/
inductive LinkErrorCause where
  | wrongStation
  | malformed (kind : Byte)
  | txOverrun (kind : Byte)
  | break
  | silence
  | seqGap (touchdown : BitVec 16)
  | siteBad (site : Byte)
  | dupSite (site : Byte)
  | overrun (touchdown : BitVec 16)
  | setupLate (touchdown : BitVec 16)
  | stray (touchdown : BitVec 16)
  deriving DecidableEq, Repr

/-- The cause of a TICKET-WITHDRAWN report (R167). -/
inductive WithdrawCause where
  | lotHold (lot : Text)
  | cancel
  deriving DecidableEq, Repr

/-- The reports, with their fields (R179's table). -/
inductive Report where
  | cellState (cell : CellId) (old new : CellState) (pause : PauseSet) (fault : FaultCode)
  | changeover (cell : CellId) (lot : Text) (portion : Nat) (wanted : Text) (installed : Option Text)
  | tally (cell : CellId) (lot : Text) (step : Nat) (pass : Pass) (portion : Nat) (touchdown : BitVec 16)
      (runGroups runTested passT : Nat) (counts : Counts)
  | limit (lot : Text) (step : Nat) (check : CheckSel) (final : Bool) (portion t figure bound : Nat) (marking : Marking)
  | holdRaised (lot : Text) (reason : HoldReason) (step portion detail : Nat)
  | holdCleared (lot : Text) (reason : HoldReason) (disposition : Disposition)
  | stepDone (lot : Text) (step : Nat) (pass : Pass) (finalGood : Nat)
  | lotState (lot : Text) (old new : LotState)
  | loadWant (cell : CellId) (program : ProgramRev) (offset length : Nat)
  | loadDone (cell : CellId) (program : Option ProgramRev) (error : Option LoadError) (counted : Bool) (relayed length : Nat)
      (catalogCheck relayedCheck stationCheck : Option (BitVec 32))
  | siteOff (cell : CellId) (site : Nat) (lot : Text) (portion count : Nat)
  | maintenance (cell : CellId) (counter limit : Nat)
  | linkError (cell : CellId) (cause : LinkErrorCause)
  | ticket (t : Ticket) (lots : List Text)
  | ticketWithdrawn (number : Nat) (shipment : Text) (cause : WithdrawCause)
  deriving DecidableEq, Repr

/-- A report in the report queue with the floor time at which it joined (R179). -/
structure QueuedReport where
  time : Nat
  report : Report
  deriving DecidableEq, Repr

/-- The frame under way on the host line: the reply at the head of the reply queue, or a report with its lost count (R178, R179);
HostLink.sending gives its bytes. -/
inductive HostFrame where
  | reply
  | report (r : QueuedReport) (lost : Nat)
  deriving DecidableEq, Repr

/-- The state of the Host Link Unit (Chapter 10). `headHeld` says that the report under way has its lost count written and its first
byte not yet sent, so that it still holds its place at the head of the report queue (R179, R185; assumption 33). -/
structure HostLink where
  speed : Nat
  rx : Receiver
  replies : List ReplyEntry
  reports : List QueuedReport
  lostReports : Nat
  lostRequests : Nat
  rxErrors : Nat
  tx : Option HostFrame
  headHeld : Bool
  deriving DecidableEq, Repr

/-- A segment buffer (R90): free, or held by the active load of a cell, as the reservation for the outstanding want at an offset or
filled with the block in flight from that offset. -/
inductive Buffer where
  | free
  | reserved (cell : CellId) (offset : Nat)
  | filled (cell : CellId) (offset : Nat) (data : List Byte)
  deriving DecidableEq, Repr

/-- The state of the 1640, and the commands that wait for it, oldest first. -/
structure State where
  pending : List Instr
  -- Floor Records Store
  products : Vector (Option Product) 16
  catalog : List CatEntry
  -- Lot Manager
  lots : Vector (Option Lot) 128
  regCounter : Nat
  -- Dispatcher
  waitList : List WaitEntry
  waiting : Vector Bool 16
  pointer : CellId
  agingLimit : Nat
  -- Cell Manager
  cells : Vector Cell 16
  -- Image Loader
  loads : Vector Load 16
  bufferWaiting : Vector Bool 16
  grantPointer : CellId
  buffers : Vector Buffer 8
  -- Cell Ports
  ports : Vector Port 16
  -- Tally and Limit Unit
  tallies : Vector LotStepRec 128
  runGroups : Vector Nat 16
  baselines : Vector (Vector Baseline 60) 16
  -- Release Unit
  summaries : Vector (Vector (Option Summary) 4) 128
  checkMarks : Vector Bool 128
  ships : Vector (Option Shipment) 8
  tickets : List Ticket
  ticketCounter : Nat
  -- Host Link Unit and Floor Clock
  host : HostLink
  floorTime : Nat
  secondPhase : Nat
  -- the model's own: how many free values of Config have been used (assumption 3)
  freeTick : Nat
  deriving DecidableEq, Repr

/-- The reasons a step can fault: none. The manual gives every command an effect in every state, so no meaning raises a
fault (safe: nothing stops where the part goes on). -/
inductive Fault where
  deriving DecidableEq, Repr

/-- The reasons a step can be refused. -/
inductive Refusal where
  /-- Raised by exec's arm of a command that has no meaning yet; safe, since the machine stops. No arm of this model raises it. -/
  | notModelled (mnemonic : String)
  deriving DecidableEq, Repr

/-! ### The values after cold reset -/

/-- A receiver that hunts and holds no candidate (R107, R184). -/
def Receiver.hunting : Receiver := ⟨false, none⟩

/-- A receiver in step, between frames (R107, R173). -/
def Receiver.between : Receiver := ⟨true, none⟩

/-- Six clear link flags (R121). -/
def LinkFlags.clear : LinkFlags := ⟨false, false, false, false, false, false⟩

/-- The empty pause-reason set (R69). -/
def PauseSet.empty : PauseSet := ⟨false, false, false⟩

/-- A baseline at n = 0, mean = 0, D = 0 (R144). -/
def Baseline.zero : Baseline := ⟨0, 0, 0⟩

/-- A cell record after cold reset (R69). -/
def Cell.reset : Cell where
  configured := false
  stationName := none
  speed := 115200
  linkUp := false
  siteCount := none
  classes := none
  kit := none
  program := none
  siteOff := 0
  consec := Vector.replicate 8 0
  state := .offline
  pause := PauseSet.empty
  cleared := false
  current := none
  pendingSlot := none
  runStarted := false
  downAfterPurge := false
  runTested := 0
  lifetime := 0
  contactorLimit := 0
  maintenanceDue := false
  loadFailures := 0
  tallyInterval := 0
  fault := .none
  purgeTimer := none
  soakTimer := none
  dwellTimer := none

/-- A load context after cold reset (R104). The running CRC, for which no reset value is given, is 0 (assumption 1). -/
def Load.reset : Load where
  program := none
  length := 0
  catalogCheck := none
  nextWant := 0
  wants := []
  inFlight := []
  relayed := 0
  crc := 0
  relayedCheck := none
  stationCheck := none
  state := .idle
  error := none
  checkTimer := false

/-- A cell port after cold reset (R107, R121). -/
def Port.reset : Port where
  rx := Receiver.hunting
  tx := none
  txList := []
  silence := none
  queue := []
  runOpen := false
  productionArrived := false
  arrival := 0
  heldRunEnd := none
  group := []
  groupCount := 0
  lastTouchdown := none
  resultCheck := 0xFFFF
  flags := LinkFlags.clear

/-- The Host Link Unit at the end of cold reset, with the strapped speed (R184). -/
def HostLink.reset (speed : Nat) : HostLink where
  speed := speed
  rx := Receiver.hunting
  replies := []
  reports := []
  lostReports := 0
  lostRequests := 0
  rxErrors := 0
  tx := none
  headHeld := false

/-- The machine right after cold reset with both straps low (R171, R184, R190; assumption 1): each block at the values its
chapter gives (R1, R12, R19, R69, R86, R90, R104, R121, R143, R144, R170, R180, R184). -/
def State.reset : State where
  pending := []
  products := Vector.replicate 16 none
  catalog := []
  lots := Vector.replicate 128 none
  regCounter := 0
  waitList := []
  waiting := Vector.replicate 16 false
  pointer := 0
  agingLimit := 4
  cells := Vector.replicate 16 Cell.reset
  loads := Vector.replicate 16 Load.reset
  bufferWaiting := Vector.replicate 16 false
  grantPointer := 15
  buffers := Vector.replicate 8 .free
  ports := Vector.replicate 16 Port.reset
  tallies := Vector.replicate 128 LotStepRec.empty
  runGroups := Vector.replicate 16 0
  baselines := Vector.replicate 16 (Vector.replicate 60 Baseline.zero)
  summaries := Vector.replicate 128 (Vector.replicate 4 none)
  checkMarks := Vector.replicate 128 false
  ships := Vector.replicate 8 none
  tickets := []
  ticketCounter := 1
  host := HostLink.reset 115200
  floorTime := 0
  secondPhase := 0
  freeTick := 0

end Sys2Proof.Machine
end

