-- ==== Sys2Proof/Config.lean ====
section
/-! DEFINITION. The values the manual leaves open, as constants without a body: nothing in Lean can evaluate them, so a claim
holds whatever they are (assumptions 2, 3, 4 and 33). -/

namespace Sys2Proof

open Sys2Proof.Machine

/-- The choice of the codes of the host line's kinds that the manual does not list: each is one of the codes left (assumption 2).
UNVERIFIED. -/
opaque Config.hostKindChoice : Nat → Nat

/-- The choice of the codes of the station-to-part kinds that the manual does not list (assumption 2). -/
opaque Config.stationKindChoice : Nat → Nat

/-- The choice of the codes of the part-to-station kinds that the manual does not list (assumption 2). -/
opaque Config.partKindChoice : Nat → Nat

/-- The records whose fields a reply or a report carries: those of the body itself, and those of the lists and records within it. -/
inductive LayoutPart where
  | body | step | monitored | catalogEntry | size | revision | count | offset | portion | hold | flagValues | summary | tally | slot | load
  | waiting | waitEntry | figure | row | ship | member
  deriving DecidableEq, Repr

/-- The sets of named values that R186 leaves the layouts to list. -/
inductive Enumeration where
  | slotState | catState | binMode | lotState | routePos | holdReason | disposition | portionState | linkStatus | cellState | faultCode
  | loadState | loadError | waitKind | entryStatus | evalClass | evaluation | marking | shipState | linkCause | withdrawCause | cancelled
  deriving DecidableEq, Repr

/-- The points at which R186 leaves a record to its layout, of which the number is that of a field in the order its rule names them:
the order of the fields, the width of a number, the codes of an enumeration, the places of the flags of a flags byte, the bytes of a
number that is none, and whether a count stands before a list. -/
inductive LayoutPoint where
  | order | width (field : Nat) | codes (e : Enumeration) | places (field : Nat) | absent (field : Nat) | counted (field : Nat)
  deriving DecidableEq, Repr

/-- A layout of a body: what it takes at each point of each record. -/
abbrev Layout := LayoutPart → LayoutPoint → Nat → Nat

/-- The layouts of the replies and reports that the manual does not give, each under its request's or its report's kind byte
(R186, R188; assumption 2). -/
opaque Config.layout : Byte → Layout

/-- Whether the first byte of the report under way has been sent by the end of an event (R179, R185): one answer for each time it
is asked (assumption 33). -/
opaque Config.firstByteSent : Nat → Bool

/-- The touchdown number an OVERRUN report carries when the dropped record's body is too short to hold one (assumption 3). -/
opaque Config.unreadableTouchdown : Nat → BitVec 16

/-- Whether a reset pulse between 1 and 10 microseconds gives a cold reset (R190): one answer for each such pulse
(assumption 4). -/
opaque Config.shortPulseResets : Nat → Bool

end Sys2Proof
end

