-- ==== Sys2Proof/Machine/Crc.lean ====
section
/-! DEFINITION. The two cyclic redundancy checks: the 16-bit frame check of both lines (R106, R172), which is also the run result
check (R119), and the 32-bit image check (R99). -/

namespace Sys2Proof.Machine

open Sys2Proof

/-- One step of the frame check register (R106). -/
def crc16Step (r : BitVec 16) : BitVec 16 := if r.msb then (r <<< 1) ^^^ 0x1021#16 else r <<< 1

/-- A number of steps of the frame check register. -/
def crc16Steps : Nat → BitVec 16 → BitVec 16
  | 0, r => r
  | n + 1, r => crc16Steps n (crc16Step r)

/-- One byte taken into the eight most significant bits, then eight steps (R106). -/
def crc16Byte (r : BitVec 16) (b : Byte) : BitVec 16 := crc16Steps 8 (r ^^^ (b.setWidth 16 <<< 8))

/-- Bytes taken into the register in their order (R106, R119). -/
def crc16From (r : BitVec 16) (bs : List Byte) : BitVec 16 := bs.foldl crc16Byte r

/-- The frame check of some bytes: the register begins at all ones and is not inverted (R106). -/
def crc16 (bs : List Byte) : BitVec 16 := crc16From 0xFFFF bs

/-- One step of the image check register (R99). -/
def crc32Step (r : BitVec 32) : BitVec 32 := if r.getLsbD 0 then (r >>> 1) ^^^ 0xEDB88320#32 else r >>> 1

/-- A number of steps of the image check register. -/
def crc32Steps : Nat → BitVec 32 → BitVec 32
  | 0, r => r
  | n + 1, r => crc32Steps n (crc32Step r)

/-- One byte taken into the eight least significant bits, then eight steps (R99). -/
def crc32Byte (r : BitVec 32) (b : Byte) : BitVec 32 := crc32Steps 8 (r ^^^ b.setWidth 32)

/-- Image bytes taken into the running CRC in their order (R94, R99). -/
def crc32From (r : BitVec 32) (bs : List Byte) : BitVec 32 := bs.foldl crc32Byte r

/-- The value the running CRC holds at load start (R99). -/
def crc32Init : BitVec 32 := 0xFFFFFFFF

/-- The check value: the register with every bit inverted (R99). -/
def crc32Final (r : BitVec 32) : BitVec 32 := ~~~r

end Sys2Proof.Machine
end

