-- ==== Sys2Proof/Machine/Wire.lean ====
section
/-! DEFINITION. The byte layouts of Chapter 12: field forms (R186), frame headers (R187), reply and report headers (R188), the central
bodies (R189), and the candidate test and scan of the receivers (R107, R173). What the host line sends is in Layouts.lean. -/

namespace Sys2Proof.Machine

open Sys2Proof

/-! ### Field forms (R186) -/

/-- A number in two bytes, most significant first. -/
def be16 (v : BitVec 16) : List Byte := [(v >>> 8).setWidth 8, v.setWidth 8]

/-- A number in three bytes, most significant first. -/
def be24 (v : BitVec 24) : List Byte := [(v >>> 16).setWidth 8, (v >>> 8).setWidth 8, v.setWidth 8]

/-- A number in four bytes, most significant first. -/
def be32 (v : BitVec 32) : List Byte :=
  [(v >>> 24).setWidth 8, (v >>> 16).setWidth 8, (v >>> 8).setWidth 8, v.setWidth 8]

/-- The number in two bytes. -/
def ofBe16 (a b : Byte) : BitVec 16 := a ++ b

/-- The number in three bytes. -/
def ofBe24 (a b c : Byte) : BitVec 24 := a ++ b ++ c

/-- The number in four bytes. -/
def ofBe32 (a b c d : Byte) : BitVec 32 := a ++ b ++ c ++ d

/-- A number in one byte. -/
def num8 (n : Nat) : List Byte := [BitVec.ofNat 8 n]

/-- A number in two bytes. -/
def num16 (n : Nat) : List Byte := be16 (BitVec.ofNat 16 n)

/-- A number in four bytes. -/
def num32 (n : Nat) : List Byte := be32 (BitVec.ofNat 32 n)

/-- A fixed text field: the characters, then 00 hex to its width. -/
def fixedText (width : Nat) (t : Text) : List Byte := (t ++ List.replicate (width - t.length) 0).take width

/-- A character code of a text field (R186): A to Z, 0 to 9, hyphen. -/
def textChar (b : Byte) : Bool :=
  (0x41 ≤ b.toNat && b.toNat ≤ 0x5A) || (0x30 ≤ b.toNat && b.toNat ≤ 0x39) || b.toNat == 0x2D

/-- What a field of a received frame reads as (R186). -/
inductive FieldRead (α : Type) where
  /-- The field holds a value of its form. -/
  | value (a : α)
  /-- An unused bit of the field is not zero. -/
  | unusedBit
  /-- The field breaks its form in another way: it lies out of range. -/
  | outOfRange
  deriving DecidableEq, Repr

/-- The bytes of a fixed text field before its pad, which begins at the first 00 hex. -/
def fieldChars (field : List Byte) : Text := field.takeWhile (· ≠ 0)

/-- A fixed text field as it is read: a pad byte that is not 00 hex holds an unused bit, and a field without a character, or with
another character code, lies out of range. -/
def readFixedText (field : List Byte) : FieldRead Text :=
  if (field.dropWhile (· ≠ 0)).any (· ≠ 0) then .unusedBit
  else if (fieldChars field).isEmpty || !(fieldChars field).all textChar then .outOfRange
  else .value (fieldChars field)

/-- A trailing text of at most `max` characters as it is read; of 0 bytes it is the empty value. -/
def readTrailingText (max : Nat) (field : List Byte) : FieldRead Text :=
  if max < field.length || !field.all textChar then .outOfRange else .value field

/-- A class set as it is read: bits 3 to 7 are unused. -/
def readClassSet (b : Byte) : FieldRead ClassSet := if 7 < b.toNat then .unusedBit else .value b

/-- The sites of a CELL-SITES-ON as they are read: bit k names site k, and a bit above 7 a number that lies out of range (R64,
assumption 46). -/
def readSites (sites : Nat) : FieldRead SiteSet := if 255 < sites then .outOfRange else .value (BitVec.ofNat 8 sites)

/-- A bin set that must hold fail bins only as it is read: bit 0 is unused. -/
def readFailBins (a b : Byte) : FieldRead BinSet := if (ofBe16 a b).getLsbD 0 then .unusedBit else .value (ofBe16 a b)

/-- A flags byte of one named flag as it is read: bits 1 to 7 are unused. -/
def readFlag (b : Byte) : FieldRead Bool := if 1 < b.toNat then .unusedBit else .value (b.getLsbD 0)

/-- The byte of a temperature class. -/
def tempClassByte : TempClass → Byte
  | .cold => 0 | .room => 1 | .hot => 2

/-- The temperature class a byte stands for; none for a value not listed. -/
def tempClassOfByte (b : Byte) : Option TempClass :=
  if b = 0 then some .cold else if b = 1 then some .room else if b = 2 then some .hot else none

/-- The byte of a pass. -/
def passByte : Pass → Byte
  | .first => 0 | .retest => 1

/-- The pass a byte stands for; none for a value not listed. -/
def passOfByte (b : Byte) : Option Pass := if b = 0 then some .first else if b = 1 then some .retest else none

/-- The byte of a mask value. -/
def maskByte : Mask → Byte
  | .unmasked => 0 | .masked => 1

/-- The mask value a byte stands for; none for a value not listed. -/
def maskOfByte (b : Byte) : Option Mask := if b = 0 then some .unmasked else if b = 1 then some .masked else none

/-! ### Kind bytes (R105, R109, R172, R174, R179) -/

/-- Some items, drawn one after another from those that are left, as a choice says: no item is drawn twice, and every order of every
selection is the one of some choice. -/
def draw {α : Type} (choice : Nat → Nat) : Nat → List α → List α
  | 0, _ => []
  | n + 1, left => (left[choice n % left.length]?).toList ++ draw choice n (left.eraseIdx (choice n % left.length))

/-- The codes that R188 and R189 give to no kind of the line. -/
def codesBut (listed : List Byte) : List Byte := ((List.range 256).map (BitVec.ofNat 8)).filter fun b => !listed.contains b

/-- The codes of the unlisted kinds of the host line, the request kinds first and then the report kinds: REPLY is 80 hex, LOAD-DATA 30,
TALLY 92 and TICKET 9D (R188, R189; assumption 2). -/
def hostCode (n : Nat) : Byte := (draw Config.hostKindChoice 61 (codesBut [0x80, 0x30, 0x92, 0x9D])).getD n 0

/-- The codes of the unlisted station-to-part kinds: SITE-RESULT is 21 hex and GROUP-END 22 (R189; assumption 2). -/
def stationCode (n : Nat) : Byte := (draw Config.stationKindChoice 11 (codesBut [0x21, 0x22])).getD n 0

/-- The codes of the unlisted part-to-station kinds: START is 43 hex and IMAGE-BLOCK 48 (R189; assumption 2). -/
def partCode (n : Nat) : Byte := (draw Config.partKindChoice 9 (codesBut [0x43, 0x48])).getD n 0

/-- The kind byte of a station frame that is not a result, in the order of R109 (assumption 2). -/
def controlKindByte : ControlKind → Byte
  | .hello => stationCode 0
  | .kit => stationCode 1
  | .purged => stationCode 2
  | .soakReached => stationCode 3
  | .status => stationCode 4
  | .jam => stationCode 5
  | .jamClear => stationCode 6
  | .runEnd => stationCode 7
  | .blockAck => stationCode 8
  | .blockNak => stationCode 9
  | .imageCheck => stationCode 10
  | .unknown b => b

/-- The kind byte of a part-to-station frame, in the order of R109 (R189, assumption 2). -/
def PartFrame.kindByte : PartFrame → Byte
  | .purge => partCode 0
  | .soak _ => partCode 1
  | .start .. => 0x43
  | .pause => partCode 2
  | .resume => partCode 3
  | .stop => partCode 4
  | .abort => partCode 5
  | .siteOff _ => partCode 6
  | .imageBlock .. => 0x48
  | .imageEnd .. => partCode 7
  | .imageDiscard => partCode 8

/-- The kind byte of a request: LOAD-DATA is 30 hex, the others in the order of R174's table (R189, assumption 2). -/
def requestByte (k : RequestKind) : Byte := if k = .loadData then 0x30 else hostCode k.ctorIdx

/-- The kind byte a reply copies from its request (R188). -/
def ReplyKind.byte : ReplyKind → Byte
  | .request k => requestByte k
  | .other b => b

/-! ### Frames (R105, R172, R187) -/

/-- A cell frame on the line: sync, length, kind, body, and the check over all but the sync (R105, R106, R187). -/
def cellFrame (kind : Byte) (body : List Byte) : List Byte :=
  let inner := be16 (BitVec.ofNat 16 body.length) ++ kind :: body
  0x5A :: (inner ++ be16 (crc16 inner))

/-- A host frame on the line: sync, length, kind, tag, body, and the check over all but the sync (R172, R187). -/
def hostFrame (kind : Byte) (tag : BitVec 16) (body : List Byte) : List Byte :=
  let inner := be16 (BitVec.ofNat 16 body.length) ++ kind :: (be16 tag ++ body)
  0xA5 :: (inner ++ be16 (crc16 inner))

/-- What a receiver makes of the bytes that followed a sync byte (R107, R173). -/
inductive Verdict where
  /-- More bytes are needed. -/
  | incomplete
  /-- The length is above the limit, or the check differs. -/
  | failed
  /-- The checks agree: the bytes between length and check, and the bytes after the frame. -/
  | proved (inner rest : List Byte)
  deriving DecidableEq, Repr

/-- The candidate test: the length limit, and how many bytes stand between length and body (R107, R173). -/
def judge (limit header : Nat) (bytes : List Byte) : Verdict :=
  match bytes with
  | a :: b :: rest =>
    let n := (ofBe16 a b).toNat
    if limit < n then .failed
    else
      let m := header + n
      match rest.drop m with
      | c :: d :: after =>
        if crc16 (a :: b :: rest.take m) = ofBe16 c d then .proved (rest.take m) after else .failed
      | _ => .incomplete
  | _ => .incomplete

/-- The cell receiver's test: bodies to 300 bytes after a kind byte (R105, R107). -/
def judgeCell (bytes : List Byte) : Verdict := judge 300 1 bytes

/-- The host receiver's test: bodies to 1,200 bytes after a kind byte and a tag (R172, R173). -/
def judgeHost (bytes : List Byte) : Verdict := judge 1200 3 bytes

/-- Bytes scanned by a receiver without an open candidate, with its mark: the receiver they leave and how many candidates among them
fail (R107, R173). A sync byte begins a candidate and any other byte sends the receiver hunting; the bytes after the sync byte of a
candidate that fails are scanned again. At a frame that is proved the scan ends, in step: the frame is a command of its own, and
what follows it on the line comes with the next command (assumption 21). -/
def scan (sync : Byte) (test : List Byte → Verdict) : Bool → List Byte → Receiver × Nat
  | mark, [] => (⟨mark, none⟩, 0)
  | mark, b :: rest =>
    if b = sync then
      match test rest with
      | .incomplete => (⟨mark, some rest⟩, 0)
      | .proved _ _ => (Receiver.between, 0)
      | .failed => ((scan sync test false rest).1, (scan sync test false rest).2 + 1)
    else scan sync test false rest

/-- Bytes arrive at a receiver: they continue an open candidate, or are scanned (R107, R173). -/
def receive (sync : Byte) (test : List Byte → Verdict) (rx : Receiver) (bytes : List Byte) : Receiver × Nat :=
  match rx.candidate with
  | none => scan sync test rx.inStep bytes
  | some cs => scan sync test rx.inStep (sync :: (cs ++ bytes))

/-- Bytes arrive at a cell port's receiver (R107). -/
def receiveCell (rx : Receiver) (bytes : List Byte) : Receiver × Nat := receive 0x5A judgeCell rx bytes

/-- Bytes arrive at the host receiver (R173). -/
def receiveHost (rx : Receiver) (bytes : List Byte) : Receiver × Nat := receive 0xA5 judgeHost rx bytes

/-! ### Reply and report headers (R188) -/

/-- The byte of a refusal's reason. -/
def Reason.byte : Reason → Byte
  | .unknownKind => 0x01 | .badField => 0x02 | .notFound => 0x03 | .tableFull => 0x04 | .inUse => 0x05
  | .wrongState => 0x06 | .duplicate => 0x07 | .offset => 0x09 | .queueFull => 0x0A

/-- The status and reason bytes. -/
def Status.bytes : Status → List Byte
  | .ok => [0x00, 0x00] | .incomplete => [0x01, 0x00] | .refused r => [0x02, r.byte]

/-- The first three bytes of a reply's body. -/
def replyHeader (kind : ReplyKind) (st : Status) : List Byte := kind.byte :: st.bytes

/-- The five bytes that begin a report's body. -/
def reportHeader (time lost : Nat) : List Byte := num32 time ++ num8 lost

/-- The fields that three refusals add from byte 3 (R188); no other refusal adds any. -/
def refusalFields : ReplyBody → List Byte
  | .expectedOffset o => be24 (BitVec.ofNat 24 o)
  | .checkFail lot n => fixedText 16 lot ++ num8 n
  | .progress n => num8 n
  | _ => []

/-! ### Central bodies (R189) -/

/-- The body of a SITE-RESULT. -/
def siteResultBody (touchdown : BitVec 16) (site bin flags : Byte) : List Byte := be16 touchdown ++ [site, bin, flags]

/-- The body of a GROUP-END. -/
def groupEndBody (touchdown : BitVec 16) (sites flags : Byte) : List Byte := be16 touchdown ++ [sites, flags]

/-- The body of a START. -/
def startBody (lot : Text) (step portion quantity : Nat) (sites : SiteSet) (run : Nat) : List Byte :=
  fixedText 16 lot ++ num8 step ++ num8 portion ++ num16 quantity ++ [sites] ++ num8 run

/-- The body of an IMAGE-BLOCK. -/
def imageBlockBody (offset : Nat) (data : List Byte) : List Byte := be24 (BitVec.ofNat 24 offset) ++ data

/-- The body of a LOAD-DATA. -/
def loadDataBody (cell offset : Nat) (data : List Byte) : List Byte := num8 cell ++ be24 (BitVec.ofNat 24 offset) ++ data

/-- The ticket record. -/
def Ticket.bytes (t : Ticket) : List Byte :=
  num16 t.number ++ fixedText 16 t.shipment ++ fixedText 10 t.product ++ num8 t.lots ++ num32 t.total ++ num32 t.time

/-- The body of a TICKET report (kind 9D hex). -/
def ticketReportBody (time lost : Nat) (t : Ticket) (lots : List Text) : List Byte :=
  reportHeader time lost ++ t.bytes ++ lots.flatMap (fixedText 16)

/-- The body of a TALLY report (kind 92 hex). -/
def tallyReportBody (time lost : Nat) (cell : CellId) (lot : Text) (step : Nat) (pass : Pass) (portion : Nat)
    (touchdown : BitVec 16) (runGroups runTested passT : Nat) (counts : Counts) : List Byte :=
  reportHeader time lost ++ num8 cell.val ++ fixedText 16 lot ++ num8 step ++ [passByte pass] ++ num8 portion ++ be16 touchdown
    ++ num16 runGroups ++ num16 runTested ++ num16 passT ++ counts.toList.flatMap num16

/-- The body of a part-to-station frame: START and IMAGE-BLOCK as R189 lays them out, the others as their fields in the order of
R109, each in its form of R186 (assumption 2): SOAK its class byte, SITE-OFF its site in one byte, IMAGE-END the length in 3 bytes
and the check in 4. -/
def PartFrame.body : PartFrame → List Byte
  | .start lot step portion quantity sites run => startBody lot step portion quantity sites run
  | .imageBlock offset data => imageBlockBody offset data
  | .soak c => [tempClassByte c]
  | .siteOff site => num8 site
  | .imageEnd length check => be24 (BitVec.ofNat 24 length) ++ be32 check
  | .purge | .pause | .resume | .stop | .abort | .imageDiscard => []

/-- The bytes of a part-to-station frame on its cell line (R105, R187). -/
def PartFrame.bytes (f : PartFrame) : List Byte := cellFrame f.kindByte f.body

/-- The bytes of a SITE-RESULT on a cell line: kind 21 hex. -/
def siteResultFrame (touchdown : BitVec 16) (site bin flags : Byte) : List Byte :=
  cellFrame 0x21 (siteResultBody touchdown site bin flags)

/-- The bytes of a GROUP-END on a cell line: kind 22 hex. -/
def groupEndFrame (touchdown : BitVec 16) (sites flags : Byte) : List Byte := cellFrame 0x22 (groupEndBody touchdown sites flags)

/-- The bytes of a LOAD-DATA on the host line: kind 30 hex. -/
def loadDataFrame (tag : BitVec 16) (cell offset : Nat) (data : List Byte) : List Byte :=
  hostFrame (requestByte .loadData) tag (loadDataBody cell offset data)

/-- The fields of a LOAD-DATA body; none outside 5 to 260 bytes (R189). -/
def readLoadData : List Byte → Option (Nat × Nat × List Byte)
  | cell :: a :: b :: c :: d :: data =>
    if data.length ≤ 255 then some (cell.toNat, (ofBe24 a b c).toNat, d :: data) else none
  | _ => none

/-- The fields of a SITE-RESULT body; none when it does not hold 5 bytes (R189). -/
def readSiteResult : List Byte → Option (BitVec 16 × Byte × Byte × Byte)
  | [a, b, site, bin, flags] => some (ofBe16 a b, site, bin, flags)
  | _ => none

/-- The fields of a GROUP-END body; none when it does not hold 4 bytes (R189). -/
def readGroupEnd : List Byte → Option (BitVec 16 × Byte × Byte)
  | [a, b, sites, flags] => some (ofBe16 a b, sites, flags)
  | _ => none

/-- The touchdown number that begins a result's body, where two bytes are there to hold it (R189). -/
def readTouchdown : List Byte → Option (BitVec 16)
  | a :: b :: _ => some (ofBe16 a b)
  | _ => none

end Sys2Proof.Machine
end

