-- ==== Sys2Proof/Machine/Ops.lean ====
section
/-! DEFINITION. The named operations over the records: reading and changing one record, looking records up, raising a report, handing a
frame to a port, and the state and waiting mark of a cell. -/

namespace Sys2Proof.Machine

open Sys2Proof

/-! ### One record read or changed -/

/-- The record of a cell. -/
def State.cell (s : State) (c : CellId) : Cell := s.cells.get c

/-- The record of a cell, replaced. -/
def State.setCell (s : State) (c : CellId) (x : Cell) : State := { s with cells := s.cells.set c.val x c.isLt }

/-- The record of a cell, changed. -/
def modCell (c : CellId) (f : Cell → Cell) (s : State) : State := s.setCell c (f (s.cell c))

/-- The port of a cell. -/
def State.port (s : State) (c : CellId) : Port := s.ports.get c

/-- The port of a cell, changed. -/
def modPort (c : CellId) (f : Port → Port) (s : State) : State := { s with ports := s.ports.set c.val (f (s.port c)) c.isLt }

/-- The load context of a cell. -/
def State.load (s : State) (c : CellId) : Load := s.loads.get c

/-- The load context of a cell, changed. -/
def modLoad (c : CellId) (f : Load → Load) (s : State) : State := { s with loads := s.loads.set c.val (f (s.load c)) c.isLt }

/-- The free buffers of the pool (R90). -/
def State.freeBuffers (s : State) : Nat := s.buffers.toList.count .free

/-- The lot record in a slot. -/
def State.lot (s : State) (x : LotSlot) : Option Lot := s.lots.get x

/-- A lot slot filled or freed. -/
def State.setLot (s : State) (x : LotSlot) (l : Option Lot) : State := { s with lots := s.lots.set x.val l x.isLt }

/-- The lot record in a slot, changed; a free slot stays free. -/
def modLot (x : LotSlot) (f : Lot → Lot) (s : State) : State := s.setLot x ((s.lot x).map f)

/-- The product in a slot. -/
def State.product (s : State) (i : ProductIx) : Option Product := s.products.get i

/-- A product slot filled or freed. -/
def State.setProduct (s : State) (i : ProductIx) (p : Option Product) : State :=
  { s with products := s.products.set i.val p i.isLt }

/-- The product in a slot, changed. -/
def modProduct (i : ProductIx) (f : Product → Product) (s : State) : State := s.setProduct i ((s.product i).map f)

/-- The lot step record at a slot (R123). -/
def State.tally (s : State) (x : LotSlot) : LotStepRec := s.tallies.get x

/-- The lot step record at a slot, changed. -/
def modTally (x : LotSlot) (f : LotStepRec → LotStepRec) (s : State) : State :=
  { s with tallies := s.tallies.set x.val (f (s.tally x)) x.isLt }

/-- The shipment in a slot. -/
def State.ship (s : State) (k : ShipSlot) : Option Shipment := s.ships.get k

/-- A shipment slot filled or freed. -/
def State.setShip (s : State) (k : ShipSlot) (x : Option Shipment) : State := { s with ships := s.ships.set k.val x k.isLt }

/-- The shipment in a slot, changed. -/
def modShip (k : ShipSlot) (f : Shipment → Shipment) (s : State) : State := s.setShip k ((s.ship k).map f)

/-- The check mark of a lot (R158). -/
def State.checkMark (s : State) (x : LotSlot) : Bool := s.checkMarks.get x

/-- The check mark of a lot, set. -/
def setCheckMark (x : LotSlot) (b : Bool) (s : State) : State := { s with checkMarks := s.checkMarks.set x.val b x.isLt }

/-- The summary of a step of a lot (R155): none for a step outside 1 to 4. -/
def State.summary (s : State) (x : LotSlot) (step : Nat) : Option Summary :=
  if step = 0 then none else ((s.summaries.get x).toList.getD (step - 1) none)

/-- The summary of a step of a lot, stored under its step index. -/
def setSummary (x : LotSlot) (m : Summary) (s : State) : State :=
  if h : 1 ≤ m.step ∧ m.step ≤ 4 then
    { s with summaries := s.summaries.set x.val ((s.summaries.get x).set (m.step - 1) (some m) (by omega)) x.isLt }
  else s

/-- The summaries a lot has, in step order. -/
def State.summaryList (s : State) (x : LotSlot) : List Summary := (s.summaries.get x).toList.filterMap id

/-- The run group count of a cell (R126), set. -/
def setRunGroups (c : CellId) (n : Nat) (s : State) : State := { s with runGroups := s.runGroups.set c.val n c.isLt }

/-- The waiting mark of a cell (R74), set. -/
def setWaiting (c : CellId) (b : Bool) (s : State) : State := { s with waiting := s.waiting.set c.val b c.isLt }

/-- The buffer-waiting mark of a load (R90), set. -/
def setBufferWaiting (c : CellId) (b : Bool) (s : State) : State :=
  { s with bufferWaiting := s.bufferWaiting.set c.val b c.isLt }

/-- Where a baseline stands among its slot's 60: step 1 to 4, bin 2 to 16 (R144). -/
def baselinePlace (step bin : Nat) : Nat := (step - 1) * 15 + (bin - 2)

/-- The baseline of a product slot, step and bin (R144); outside those ranges there is none and it reads as reset. -/
def State.baseline (s : State) (i : ProductIx) (step bin : Nat) : Baseline :=
  if 1 ≤ step ∧ step ≤ 4 ∧ 2 ≤ bin ∧ bin ≤ 16 then (s.baselines.get i).toList.getD (baselinePlace step bin) Baseline.zero
  else Baseline.zero

/-- The baseline of a product slot, step and bin, replaced; outside those ranges nothing changes. -/
def setBaseline (i : ProductIx) (step bin : Nat) (b : Baseline) (s : State) : State :=
  if h : 1 ≤ step ∧ step ≤ 4 ∧ 2 ≤ bin ∧ bin ≤ 16 then
    { s with baselines := s.baselines.set i.val ((s.baselines.get i).set (baselinePlace step bin) b
        (by unfold baselinePlace; omega)) i.isLt }
  else s

/-- Every baseline of a product slot, reset (R145). -/
def resetBaselines (i : ProductIx) (s : State) : State :=
  { s with baselines := s.baselines.set i.val (Vector.replicate 60 Baseline.zero) i.isLt }

/-! ### Looking records up -/

/-- The slot of the lot of that id (R19). -/
def State.findLot (s : State) (id : Text) : Option LotSlot :=
  (List.finRange 128).find? fun x => match s.lot x with | some l => l.id = id | none => false

/-- The lowest-numbered free lot slot (R21). -/
def State.freeLot (s : State) : Option LotSlot := (List.finRange 128).find? fun x => (s.lot x).isNone

/-- The product index of the product of that code (R1). -/
def State.findProduct (s : State) (code : Text) : Option ProductIx :=
  (List.finRange 16).find? fun i => match s.product i with | some p => p.code = code | none => false

/-- The lowest-numbered FREE product slot (R5). -/
def State.freeProduct (s : State) : Option ProductIx := (List.finRange 16).find? fun i => (s.product i).isNone

/-- The slot of the shipment of that id (R161). -/
def State.findShip (s : State) (id : Text) : Option ShipSlot :=
  (List.finRange 8).find? fun k => match s.ship k with | some x => x.id = id | none => false

/-- The lowest-numbered free shipment slot (R161). -/
def State.freeShip (s : State) : Option ShipSlot := (List.finRange 8).find? fun k => (s.ship k).isNone

/-- The shipment a lot is a member of (R161). -/
def State.shipOf (s : State) (x : LotSlot) : Option ShipSlot :=
  (List.finRange 8).find? fun k => match s.ship k with | some h => h.members.contains x | none => false

/-- The lots in the table with their slots, in ascending order of slot. -/
def State.lotList (s : State) : List (LotSlot × Lot) :=
  (List.finRange 128).filterMap fun x => (s.lot x).map fun l => (x, l)

/-- The catalog entry of a program name and revision (R12). -/
def State.entry (s : State) (name : Text) (revision : Nat) : Option CatEntry :=
  s.catalog.find? fun e => e.name = name && e.revision = revision

/-- A revision is usable: the catalog holds it APPROVED (R12). -/
def State.approved (s : State) (name : Text) (revision : Nat) : Bool :=
  match s.entry name revision with | some e => e.state = .approved | none => false

/-- The step record at a step index of a product's route. -/
def Product.step (p : Product) (k : Nat) : Option StepRec := if k = 0 then none else p.steps[k - 1]?

/-- The step record at a lot's current step index, as the product table holds it now. -/
def State.stepOf (s : State) (l : Lot) : Option StepRec := (s.product l.product).bind fun p => p.step l.stepIndex

/-- A portion of a lot by its number. -/
def Lot.portion (l : Lot) (n : Nat) : Option Portion := l.portions.find? fun p => p.number = n

/-- A portion of a lot, changed. -/
def Lot.modPortion (l : Lot) (n : Nat) (f : Portion → Portion) : Lot :=
  { l with portions := l.portions.map fun p => if p.number = n then f p else p }

/-- A portion, changed where it stands in its lot. -/
def modPortion (ref : PortionRef) (f : Portion → Portion) (s : State) : State :=
  modLot ref.lot (fun l => l.modPortion ref.portion f) s

/-- The lot, the portion and the step record that a slot's portion concerns. -/
def State.work (s : State) (ref : PortionRef) : Option (Lot × Portion × StepRec) :=
  match s.lot ref.lot with
  | none => none
  | some l =>
    match l.portion ref.portion, s.stepOf l with
    | some p, some st => some (l, p, st)
    | _, _ => none

/-- The work in a cell's current slot. -/
def State.currentWork (s : State) (c : CellId) : Option (PortionRef × Lot × Portion × StepRec) :=
  match (s.cell c).current with
  | none => none
  | some ref => (s.work ref).map fun w => (ref, w)

/-- The pass a portion number belongs to (R22). -/
def passOf (n : Nat) : Pass := if n < 9 then .first else .retest

/-- The current pass of a lot: the retest pass once one has been queued (R19, R22). -/
def Lot.pass (l : Lot) : Pass := if l.retest then .retest else .first

/-- The portions of a pass. -/
def Lot.passPortions (l : Lot) (p : Pass) : List Portion := l.portions.filter fun x => passOf x.number = p

/-- The QUEUED portions of a lot, in ascending number. -/
def Lot.queuedPortions (l : Lot) : List Portion := l.portions.filter fun p => p.state = .queued

/-- A revision added to a set kept in ascending order without repeats (R23). -/
def insertRev (r : Nat) : List Nat → List Nat
  | [] => [r]
  | x :: xs => if r < x then r :: x :: xs else if r = x then x :: xs else x :: insertRev r xs

/-- The union of the placed-revision sets of the portions of both passes (R10, R23): the step's revisions used. -/
def Lot.revisionsUsed (l : Lot) : List Nat := (l.portions.flatMap (·.placedRevs)).foldl (fun a r => insertRev r a) []

/-! ### Pause-reason sets and sites -/

/-- No pause reason is present. -/
def PauseSet.isEmpty (p : PauseSet) : Bool := !p.hold && !p.jam && !p.operator

/-- The set with a reason added (R53). -/
def PauseSet.add (p : PauseSet) : PauseReason → PauseSet
  | .hold => { p with hold := true } | .jam => { p with jam := true } | .operator => { p with operator := true }

/-- The set with a reason removed (R53). -/
def PauseSet.drop (p : PauseSet) : PauseReason → PauseSet
  | .hold => { p with hold := false } | .jam => { p with jam := false } | .operator => { p with operator := false }

/-- A reason is present. -/
def PauseSet.has (p : PauseSet) : PauseReason → Bool
  | .hold => p.hold | .jam => p.jam | .operator => p.operator

/-- The enabled site set: the sites below the site count that are not off (R43). -/
def Cell.enabled (x : Cell) : SiteSet :=
  match x.siteCount with
  | none => 0
  | some n => (BitVec.ofNat 8 (2 ^ n - 1)) &&& ~~~x.siteOff

/-- A cell is online: configured, link UP and not DOWN (R43). -/
def Cell.online (x : Cell) : Bool := x.configured && x.linkUp && x.state ≠ .down

/-! ### Reports and frames -/

/-- A report joins the report queue with the floor time, or is dropped and counted at 64 (R179). -/
def raise (r : Report) (s : State) : State :=
  if s.host.reports.length < 64 then
    { s with host := { s.host with reports := s.host.reports ++ [⟨s.floorTime, r⟩] } }
  else { s with host := { s.host with lostReports := satInc 255 s.host.lostReports } }

/-- The report under way leaves the report queue once its first byte has been sent (R179). -/
def HostLink.leave (sent : Bool) (h : HostLink) : HostLink :=
  { h with reports := if h.headHeld && sent then h.reports.tail else h.reports, headHeld := h.headHeld && !sent }

/-- The transmitter takes the next host frame: the head of the reply queue, else the head of the report queue with the
lost-report count, which becomes 0, else nothing (R178, R179). A report sent before has left the queue by then; one that begins
now holds its place until its first byte has been sent (R185; assumption 33). -/
def nextHostFrame (h : HostLink) : HostLink :=
  let h := h.leave true
  match h.replies with
  | _ :: _ => { h with tx := some .reply }
  | [] =>
    match h.reports with
    | r :: _ => { h with lostReports := 0, tx := some (.report r h.lostReports), headHeld := true }
    | [] => { h with tx := none }

/-- The host line at the end of an event: idle, it takes a frame that has become ready. -/
def HostLink.wake (h : HostLink) : HostLink := if h.tx.isNone then nextHostFrame h else h

/-- At the end of an event, an idle host line takes a frame that has become ready (R178; assumption 5), and a report under way that
still holds its place leaves it, or not yet: a free value (R179, R185; assumption 33). -/
def settleHost (s : State) : State :=
  { s with
    host := s.host.wake.leave (Config.firstByteSent s.freeTick)
    freeTick := if s.host.wake.headHeld then s.freeTick + 1 else s.freeTick }

/-- A frame handed to a cell port: not placed while the link is DOWN, sent at once on an idle line with an empty list, and
dropped with a TX-OVERRUN report when 32 wait (R110). -/
def sendFrame (c : CellId) (f : PartFrame) (s : State) : State :=
  if (s.cell c).linkUp then
    if (s.port c).tx.isNone && (s.port c).txList.isEmpty then modPort c (fun p => { p with tx := some f }) s
    else if (s.port c).txList.length < 32 then modPort c (fun p => { p with txList := p.txList ++ [f] }) s
    else raise (.linkError c (.txOverrun f.kindByte)) s
  else s

/-- The clearing common to the six events of R121: queue, held RUN-END, group, run open, arrival group. -/
def Port.clearIntake (p : Port) : Port :=
  { p with queue := [], heldRunEnd := none, group := [], groupCount := 0, runOpen := false, arrival := 0 }

/-- ABORT handed to a port: the intake is cleared before the frame is queued (R110, R121). -/
def sendAbort (c : CellId) (s : State) : State := sendFrame c .abort (modPort c Port.clearIntake s)

/-- A START opens the port's run: run open, no arrivals, no last touchdown number, the result check at all ones (R112, R115,
R119). -/
def Port.openRun (p : Port) : Port :=
  { p with runOpen := true, productionArrived := false, arrival := 0, lastTouchdown := none, resultCheck := 0xFFFF }

/-- A change of a cell's state sends a CELL-STATE report with the pause-reason set and fault code as they stand (R44). -/
def setCellState (c : CellId) (st : CellState) (s : State) : State :=
  if (s.cell c).state = st then s
  else raise (.cellState c (s.cell c).state st (s.cell c).pause (s.cell c).fault) (modCell c (fun x => { x with state := st }) s)

/-- The three timers of a cell, stopped. -/
def Cell.stopTimers (x : Cell) : Cell := { x with purgeTimer := none, soakTimer := none, dwellTimer := none }

/-- HOLD leaves the pause-reason set with the current portion (R53); this is no resumption. -/
def Cell.dropHold (x : Cell) : Cell := { x with pause := x.pause.drop .hold }

/-- PURGE is sent, the purge timer starts at 600 s and the cell enters PURGING (R45, R57, R61, R63, R69). -/
def startPurge (c : CellId) (s : State) : State :=
  setCellState c .purging (modCell c (fun x => { x with purgeTimer := some 600 }) (sendFrame c .purge s))

/-! ### The waiting mark of a cell -/

/-- What runs when an event asks for an offer round (R80): the round itself, or, inside a round, nothing (assumption 6). -/
abbrev Round := State → State

/-- A cell is waiting for work (R48). -/
def Cell.waits (x : Cell) : Bool :=
  !x.maintenanceDue && x.pendingSlot.isNone &&
    ((x.state == .idle && x.cleared && x.pause.isEmpty) || x.state == .running)

/-- A cell that has come to wait joins the waiting-cell set and a round runs; one that has ceased to leaves the set; a
cell already in the set changes nothing (R48, R74). -/
def updateWaiting (rnd : Round) (c : CellId) (s : State) : State :=
  if (s.cell c).waits then
    if s.waiting.get c then s else rnd (setWaiting c true s)
  else setWaiting c false s

end Sys2Proof.Machine
end

