-- ==== Sys2Proof/Machine/Loader.lean ====
section
/-! DEFINITION. The Image Loader: load start (R88), buffers and grants (R90, R91), wants (R92), blocks and acknowledgements (R94, R95), the
end of a load (R98 to R101). The load-done event reaches the Cell Manager in Cells.lean. -/

namespace Sys2Proof.Machine

open Sys2Proof

/-- A load is active: WANTING, RELAYING or VERIFYING (R87). -/
def Load.active (d : Load) : Bool :=
  match d.state with
  | .wanting | .relaying | .verifying => true
  | .idle | .done | .failed => false

/-- The buffers a load holds: its outstanding wants plus its blocks in flight (R87). -/
def Load.held (d : Load) : Nat := d.wants.length + d.inFlight.length

/-- A load needs a buffer (R90). -/
def Load.needs (d : Load) : Bool :=
  (d.state == .wanting || d.state == .relaying) && d.held < 2 && d.nextWant < d.length

/-- The expected length of the block at an offset (R89). -/
def Load.blockLength (d : Load) (o : Nat) : Nat := min 256 (d.length - o)

/-- The program a context names; the empty name before any load. -/
def Load.named (d : Load) : ProgramRev := d.program.getD ⟨[], 0⟩

/-- A want is issued for the block at the next want offset, with its LOAD-WANT report (R92). -/
def issueWant (c : CellId) (s : State) : State :=
  let d := s.load c
  modLoad c (fun d => { d with nextWant := min (d.nextWant + 256) d.length })
    (raise (.loadWant c d.named d.nextWant (d.blockLength d.nextWant))
      (modLoad c (fun d => { d with wants := d.wants ++ [d.nextWant] }) s))

/-- The lowest-numbered buffer of a kind, if one is there, becomes another. -/
def turnBuffer (is : Buffer → Bool) (b : Buffer) (s : State) : State :=
  match (List.finRange 8).find? fun i => is (s.buffers.get i) with
  | some i => { s with buffers := s.buffers.set i.val b i.isLt }
  | none => s

/-- A free buffer becomes the reservation for the want at an offset (R90); which free buffer is the model's choice (assumption 47). -/
def reserveBuffer (c : CellId) (offset : Nat) : State → State := turnBuffer (· = .free) (.reserved c offset)

/-- A block is placed in the buffer reserved for its want (R94). -/
def fillBuffer (c : CellId) (offset : Nat) (data : List Byte) : State → State :=
  turnBuffer (· = .reserved c offset) (.filled c offset data)

/-- The buffer holds the block of a load at an offset. -/
def Buffer.holdsBlock (c : CellId) (offset : Nat) : Buffer → Bool
  | .filled d o _ => d = c && o = offset
  | .free | .reserved _ _ => false

/-- The buffer of an acknowledged block becomes free, its bytes gone (R95). -/
def freeBlock (c : CellId) (offset : Nat) : State → State := turnBuffer (Buffer.holdsBlock c offset) .free

/-- The buffer, free if that load held it. -/
def Buffer.freedFrom (c : CellId) (b : Buffer) : Buffer :=
  match b with
  | .free => .free
  | .reserved d _ => if d = c then .free else b
  | .filled d _ _ => if d = c then .free else b

/-- Every buffer a load holds becomes free, a block in flight lost with it (R101). -/
def freeLoad (c : CellId) (s : State) : State := { s with buffers := s.buffers.map (Buffer.freedFrom c) }

/-- A free buffer is granted to a load: it is reserved for the next want, the grant pointer becomes the load's cell, the want is
issued, and the load leaves the buffer-waiting set when it no longer needs one (R91). -/
def grantBuffer (c : CellId) (s : State) : State :=
  let s1 := issueWant c { reserveBuffer c (s.load c).nextWant s with grantPointer := c }
  if (s1.load c).needs then s1 else setBufferWaiting c false s1

/-- The cells in cyclic order from a cell on. -/
def cyclicFrom (c : CellId) : List CellId := (List.finRange 16).map fun i => c + i

/-- The first member of the buffer-waiting set in cyclic order from the cell after the grant pointer (R91). -/
def State.nextGrant (s : State) : Option CellId :=
  (cyclicFrom (s.grantPointer + 1)).find? fun c => s.bufferWaiting.get c

/-- Free buffers are granted one after another while members wait (R91); as many grants as there are free buffers suffice. -/
def distribute : Nat → State → State
  | 0, s => s
  | n + 1, s =>
    if s.freeBuffers = 0 then s
    else
      match s.nextGrant with
      | none => s
      | some c => distribute n (grantBuffer c s)

/-- Free buffers go to the arbiter of R91. -/
def grantFree (s : State) : State := distribute s.freeBuffers s

/-- A load comes to need a buffer: it takes its turn with the loads waiting (R91). -/
def askBuffer (c : CellId) (s : State) : State :=
  if (s.load c).needs then grantFree (setBufferWaiting c true s) else s

/-- The context of a load that starts (R88). -/
def startedLoad (p : ProgramRev) (e : CatEntry) : Load where
  program := some p
  length := e.length
  catalogCheck := some e.check
  nextWant := 0
  wants := []
  inFlight := []
  relayed := 0
  crc := crc32Init
  relayedCheck := none
  stationCheck := none
  state := .wanting
  error := none
  checkTimer := false

/-- An error the Cell Manager counts (R51, R103). -/
def LoadError.counted : LoadError → Bool
  | .source | .transfer | .timeout => true
  | .suspended | .aborted => false

/-- The LOAD-DONE report of a load as its context stands (R103). -/
def loadDoneReport (c : CellId) (d : Load) : Report :=
  .loadDone c d.program d.error (match d.error with | some e => e.counted | none => false) d.relayed d.length
    d.catalogCheck d.relayedCheck d.stationCheck

/-- A load ends with a failure, steps 1 to 5 of R101: FAILED with its first error, timers stopped, IMAGE-DISCARD on an UP
link, its buffers granted on, LOAD-DONE. Nothing happens when the load is not active. -/
def failLoad (c : CellId) (e : LoadError) (s : State) : State :=
  let d := s.load c
  if d.active then
    let s1 := modLoad c (fun d => { d with state := .failed, error := some e, wants := [], inFlight := [], checkTimer := false }) s
    let s2 := sendFrame c .imageDiscard s1
    let s3 := setBufferWaiting c false (freeLoad c s2)
    let s4 := grantFree s3
    raise (loadDoneReport c (s4.load c)) s4
  else s

/-- A load-start event (R88): the entry APPROVED, the load begins and asks for its buffers; otherwise it ends at once with
SUSPENDED, with no frame and no buffer. The second part says whether it has begun. -/
def startLoad (c : CellId) (p : ProgramRev) (s : State) : State × Bool :=
  match s.entry p.name p.revision with
  | some e =>
    if e.state = .approved then (askBuffer c (modLoad c (fun _ => startedLoad p e) s), true)
    else
      let s1 := modLoad c (fun d => { d with program := some p, state := .failed, error := some .suspended }) s
      (raise (loadDoneReport c (s1.load c)) s1, false)
  | none =>
    let s1 := modLoad c (fun d => { d with program := some p, state := .failed, error := some .suspended }) s
    (raise (loadDoneReport c (s1.load c)) s1, false)

/-- A taken LOAD-DATA block: it is placed in the buffer of its want, the want leaves the outstanding wants, the bytes pass through the
running CRC, IMAGE-BLOCK is sent and its acknowledge timer starts, the relayed check forms at the end, and WANTING becomes RELAYING (R94). -/
def relayBlock (c : CellId) (offset : Nat) (data : List Byte) (s : State) : State :=
  let s1 := modLoad c (fun d =>
    { d with wants := d.wants.tail, crc := crc32From d.crc data, relayed := d.relayed + data.length }) (fillBuffer c offset data s)
  let s2 := modLoad c (fun d => { d with inFlight := d.inFlight ++ [offset] }) (sendFrame c (.imageBlock offset data) s1)
  modLoad c (fun d =>
    { d with
      relayedCheck := if d.relayed = d.length then some (crc32Final d.crc) else d.relayedCheck
      state := if d.state = .wanting then .relaying else d.state }) s2

/-- An acknowledged block: it leaves the blocks in flight, its buffer goes to the arbiter, and after the last one IMAGE-END
is sent and the load verifies (R95, R98). -/
def ackBlock (c : CellId) (offset : Nat) (s : State) : State :=
  let d := s.load c
  if d.state = .relaying && d.inFlight.contains offset then
    let s1 := modLoad c (fun d => { d with inFlight := d.inFlight.erase offset }) (freeBlock c offset s)
    let s2 := if (s1.load c).needs then setBufferWaiting c true s1 else s1
    let s3 := grantFree s2
    let d3 := s3.load c
    if d3.relayed = d3.length && d3.inFlight.isEmpty then
      modLoad c (fun d => { d with state := .verifying, checkTimer := true })
        (sendFrame c (.imageEnd d3.length (d3.catalogCheck.getD 0)) s3)
    else s3
  else s

/-- The outcome of the compare of the three checks: none when good (R100). -/
def compareChecks (d : Load) (station : BitVec 32) : Option LoadError :=
  if d.relayedCheck ≠ d.catalogCheck then some .source
  else if d.relayedCheck ≠ some station then some .transfer
  else none

end Sys2Proof.Machine
end

