-- ==== Sys2Proof/Machine/WaitList.lean ====
section
/-! DEFINITION. The Dispatcher's wait list: its order, the making, moving and removal of entries (R70 to R73). The offer round itself is
in Dispatcher.lean; here it is the argument `rnd`. -/

namespace Sys2Proof.Machine

open Sys2Proof

/-- The registration number of the lot an entry stands for (R70). -/
def State.regNoOf (s : State) (x : LotSlot) : Nat := match s.lot x with | some l => l.regNo | none => 0

/-- Entry `a` stands before entry `b`: priority highest first, then step-ready time, then registration number, then lot slot
(R70). -/
def entryBefore (s : State) (a b : WaitEntry) : Bool :=
  if a.priority ≠ b.priority then b.priority < a.priority
  else if a.stepReady ≠ b.stepReady then a.stepReady < b.stepReady
  else if s.regNoOf a.lot ≠ s.regNoOf b.lot then s.regNoOf a.lot < s.regNoOf b.lot
  else a.lot < b.lot

/-- An entry put at its position in the order of R70. -/
def insertEntry (s : State) (e : WaitEntry) : List WaitEntry → List WaitEntry
  | [] => [e]
  | x :: xs => if entryBefore s e x then e :: x :: xs else x :: insertEntry s e xs

/-- A lot has a wait-list entry. -/
def State.hasEntry (s : State) (x : LotSlot) : Bool := s.waitList.any fun e => e.lot = x

/-- An entry-needed event: a lot without an entry gets one, with skip count 0, and an offer round runs; for a lot with an
entry nothing changes (R71). -/
def entryNeeded (rnd : Round) (x : LotSlot) (s : State) : State :=
  match s.lot x with
  | none => s
  | some l =>
    if s.hasEntry x then s
    else rnd { s with waitList := insertEntry s ⟨x, l.priority, l.stepReady, 0⟩ s.waitList }

/-- An entry-removed event (R72): no round follows. -/
def removeEntry (x : LotSlot) (s : State) : State := { s with waitList := s.waitList.filter fun e => e.lot ≠ x }

/-- A priority event: the entry moves to its new place with its skip count, and a round runs; an entry that already holds
the priority stays where it stands (R73). -/
def priorityEvent (rnd : Round) (x : LotSlot) (priority : Nat) (s : State) : State :=
  match s.waitList.find? fun e => e.lot = x with
  | none => s
  | some e =>
    if e.priority = priority then rnd s
    else
      let rest := s.waitList.filter fun f => f.lot ≠ x
      rnd { s with waitList := insertEntry s { e with priority := priority } rest }

end Sys2Proof.Machine
end

