-- ==== Sys2Proof/Machine/Lots.lean ====
section
/-! DEFINITION. The Lot Manager's state and holds: the derived lot state and its report (R20), shipment invalidation (R163), the merging of
hold events and the effects of a first hold (R28, R29), and the return of a pending portion (R23, R83). -/

namespace Sys2Proof.Machine

open Sys2Proof

/-! ### Shipments a lot change reaches (R42, R163) -/

/-- A shipment invalidated: progress 0, marks cleared, OPEN. -/
def Shipment.invalidate (x : Shipment) : Shipment := { x with state := .open, progress := 0 }

/-- A member is marked: its position is below the progress index (R161). -/
def Shipment.marked (x : Shipment) (m : LotSlot) : Bool := (x.members.take x.progress).contains m

/-- A lot-changed event: a CHECKING shipment of which the lot is a marked member is invalidated (R163). -/
def lotChanged (x : LotSlot) (s : State) : State :=
  match s.shipOf x with
  | none => s
  | some k => modShip k (fun h => if h.state = .checking && h.marked x then h.invalidate else h) s

/-- A member-removed event: the lot leaves the member list, progress 0, marks cleared, OPEN (R163). R163 has the event reach an OPEN
or CHECKING shipment; a RELEASED one, which it reaches only after a composed context record, is taken in the same words, and its ticket,
the number it records and the other members stay as they are, which is the model's choice (DESIGN CHOICE, assumption 51). -/
def memberRemoved (x : LotSlot) (s : State) : State :=
  match s.shipOf x with
  | none => s
  | some k => modShip k (fun h => { h.invalidate with members := h.members.filter fun m => m ≠ x }) s

/-- The lot is in a RELEASED shipment (R20). -/
def State.inReleased (s : State) (x : LotSlot) : Bool :=
  match s.shipOf x with
  | none => false
  | some k => match s.ship k with | some h => h.state = .released | none => false

/-! ### Lot state (R20) -/

/-- One of the four states set directly, which no other event changes (R20). -/
def LotState.direct : LotState → Bool
  | .closed | .scrapping | .scrapped | .noYield => true
  | .waiting | .active | .parked | .qaWait | .complete | .released => false

/-- The lot is in CLOSED, SCRAPPED or NO-YIELD: it is no live lot of its product (R1). -/
def LotState.ended : LotState → Bool
  | .closed | .scrapped | .noYield => true
  | .waiting | .active | .parked | .qaWait | .complete | .released | .scrapping => false

/-- A portion is PENDING or AT-CELL. -/
def Portion.placed (p : Portion) : Bool :=
  match p.state with | .pending _ | .atCell _ => true | .queued | .done => false

/-- A portion is AT-CELL. -/
def Portion.atCell (p : Portion) : Bool :=
  match p.state with | .atCell _ => true | .queued | .pending _ | .done => false

/-- The derived state of a lot, given whether it is in a RELEASED shipment (R20's table). -/
def Lot.derived (released : Bool) (l : Lot) : LotState :=
  match l.route with
  | .stepOpen => if l.portions.any Portion.placed then .active else if l.holds.isEmpty then .waiting else .parked
  | .stepHeld => .parked
  | .qaSample => .qaWait
  | .qaFailed => .parked
  | .routeEnd => if released then .released else .complete

/-- A lot's state set to another one: the LOT-STATE report, and the lot-changed event of a shipment member (R20, R42). -/
def setLotState (x : LotSlot) (st : LotState) (s : State) : State :=
  match s.lot x with
  | none => s
  | some l =>
    if l.state = st then s
    else lotChanged x (raise (.lotState l.id l.state st) (s.setLot x (some { l with state := st })))

/-- The recomputation of a lot's state after an event (R20); a state set directly stays. -/
def refreshLot (x : LotSlot) (s : State) : State :=
  match s.lot x with
  | none => s
  | some l => if l.state.direct then s else setLotState x (l.derived (s.inReleased x)) s

/-- The product's live-lot count falls by one (R1). -/
def dropLive (i : ProductIx) (s : State) : State := modProduct i (fun p => { p with live := p.live - 1 }) s

/-- The product's live-lot count rises by one (R1). -/
def addLive (i : ProductIx) (s : State) : State := modProduct i (fun p => { p with live := p.live + 1 }) s

/-! ### Pause reasons a lot's hold adds (R53, R54) -/

/-- A pause reason is added: when the set goes from empty to not empty the cell acts by its state (R53). -/
def addPause (c : CellId) (r : PauseReason) (s : State) : State :=
  let x := s.cell c
  let s1 := modCell c (fun x => { x with pause := x.pause.add r }) s
  let s2 :=
    if x.pause.isEmpty then
      match x.state with
      | .running => setCellState c .paused (sendFrame c .pause s1)
      | .soaking =>
        setCellState c .paused (modCell c (fun x => { x with soakTimer := none, dwellTimer := none }) (sendFrame c .pause s1))
      | .offline | .purging | .idle | .reserved | .loading | .paused | .draining | .down => s1
    else s1
  updateWaiting id c s2

/-- A hold-added event: discarded when the named portion is no longer in the current slot (R54). -/
def holdAdded (c : CellId) (ref : PortionRef) (s : State) : State :=
  if (s.cell c).current = some ref then addPause c .hold s else s

/-! ### Pending portions return (R23, R83) -/

/-- A cell's pending slot is emptied and its portion is QUEUED again; no state is recomputed and no event handed yet. -/
def emptyPending (c : CellId) (s : State) : State :=
  match (s.cell c).pendingSlot with
  | none => s
  | some ref =>
    modPortion ref (fun p => { p with state := .queued }) (modCell c (fun x => { x with pendingSlot := none }) s)

/-- A cell's pending portion returns to QUEUED: its lot's state is recomputed, and the lot gets a wait-list entry when it
has none (R23, R83). -/
def returnPending (rnd : Round) (c : CellId) (s : State) : State :=
  match (s.cell c).pendingSlot with
  | none => s
  | some ref => entryNeeded rnd ref.lot (refreshLot ref.lot (emptyPending c s))

/-! ### Holds (R28, R29) -/

/-- The portions of a lot that are AT-CELL, with their cells, in ascending portion number: the order in which a first hold pauses them,
the last hold gone frees them and a SCRAP aborts them, which the manual leaves open (R29, R30, R35; assumption 37). -/
def Lot.atCells (l : Lot) : List (CellId × Nat) :=
  l.portions.filterMap fun p => match p.state with | .atCell c => some (c, p.number) | .queued | .pending _ | .done => none

/-- The cells in whose pending slots a lot has portions, in ascending portion number: the order in which a first hold and a SCRAP
empty them, which the manual leaves open (R29, R35, R83; assumption 37). -/
def Lot.pendingCells (l : Lot) : List CellId :=
  l.portions.filterMap fun p => match p.state with | .pending c => some c | .queued | .atCell _ | .done => none

/-- A lot's first hold: its cells pause, its pending portions return to QUEUED, and its state is recomputed (R29). Each pending
portion returns with its entry event, its cell's waiting event and the rounds they ask for before the next one does (R83;
assumption 37). -/
def firstHold (rnd : Round) (x : LotSlot) (s : State) : State :=
  match s.lot x with
  | none => s
  | some l =>
    let s1 := l.atCells.foldl (fun s a => holdAdded a.1 ⟨x, a.2⟩ s) s
    let s2 := l.pendingCells.foldl (fun s c => updateWaiting rnd c (entryNeeded rnd x (emptyPending c s))) s1
    refreshLot x s2

/-- A lot's hold list holds a record of a reason. -/
def Lot.heldFor (l : Lot) (r : HoldReason) : Bool := l.holds.any fun h => h.reason = r

/-- The occurrence count of the record of a reason, raised by one and saturating at 255 (R28). -/
def bumpHold (r : HoldReason) (hs : List Hold) : List Hold :=
  hs.map fun h => if h.reason = r then { h with occurrences := satInc 255 h.occurrences } else h

/-- The check note of a merged CHECK event: the lot's check mark becomes yes while its step is open or held (R158). -/
def checkNote (x : LotSlot) (r : HoldReason) (route : RoutePos) (s : State) : State :=
  if r = .check && (route = .stepOpen || route = .stepHeld) then setCheckMark x true s else s

/-- A hold event, merged into the lot's list: one more occurrence, or a new record with a HOLD-RAISED report and, in an
empty list, the effects of R29; discarded for a lot that is gone or in a directly set state (R28, R158). -/
def mergeHold (rnd : Round) (x : LotSlot) (r : HoldReason) (portion detail : Nat) (s : State) : State :=
  match s.lot x with
  | none => s
  | some l =>
    if l.state.direct then s
    else if l.heldFor r then
      lotChanged x (checkNote x r l.route (s.setLot x (some { l with holds := bumpHold r l.holds })))
    else
      let record : Hold := ⟨r, s.floorTime, 1, l.stepIndex, portion, detail⟩
      let s1 := raise (.holdRaised l.id r l.stepIndex portion detail)
        (checkNote x r l.route (s.setLot x (some { l with holds := l.holds ++ [record] })))
      let s2 := lotChanged x s1
      if l.holds.isEmpty then firstHold rnd x s2 else s2

end Sys2Proof.Machine
end

