-- ==== Sys2Proof/Machine/Tally.lean ====
section
/-! DEFINITION. The Tally and Limit Unit: fractions and effective ceilings (R129, R132), evaluations and limit flags (R130 to R136), waive
and retest events (R137, R138), the unmask event and the import review (R139, R140), and the baseline update (R147 to R149). -/

namespace Sys2Proof.Machine

open Sys2Proof

/-! ### Fractions and ceilings -/

/-- The fraction f(c, T) in ppm, nearest with halves up (R129). -/
def fraction (c t : Nat) : Nat := (c * 1000000 + t / 2) / t

/-- The learned value of an entry: mean + ceil(K × D / 4) (R132). -/
def learnedValue (e : MonEntry) (b : Baseline) : Nat := b.mean + (e.k * b.dev + 3) / 4

/-- The effective ceiling of an entry (R132). -/
def effectiveCeiling (e : MonEntry) (b : Baseline) : Nat :=
  if e.mode = .static || b.n < 5 then e.ceiling else min e.ceiling (max e.floor (learnedValue e b))

/-! ### Evaluation classes, flags and waivers -/

/-- The class a first-pass sum gives (R130). -/
def evalClass (t m : Nat) : EvalClass := if t = 0 then .empty else if t < m then .small else .full

/-- The flag of a check. -/
def LotStepRec.flag (r : LotStepRec) : CheckSel → Option FlagValues
  | .yield => r.yieldFlag
  | .bin b => if b = 0 then none else r.binFlags.toList.getD (b - 1) none

/-- The flag of a check, set or cleared. -/
def LotStepRec.setFlag (r : LotStepRec) (k : CheckSel) (f : Option FlagValues) : LotStepRec :=
  match k with
  | .yield => { r with yieldFlag := f }
  | .bin b => if h : 1 ≤ b ∧ b ≤ 16 then { r with binFlags := r.binFlags.set (b - 1) f (by omega) } else r

/-- A check is in a waive set. -/
def WaiveSet.has (w : WaiveSet) : CheckSel → Bool
  | .yield => w.yield
  | .bin b => BinSet.has w.bins b

/-- A check joins a waive set (R137). -/
def WaiveSet.add (w : WaiveSet) : CheckSel → WaiveSet
  | .yield => { w with yield := true }
  | .bin b => { w with bins := BinSet.add w.bins b }

/-- The hold reason of a check. -/
def checkReason : CheckSel → HoldReason
  | .yield => .yield
  | .bin _ => .binlimit

/-- The detail of a check's hold event: 0, or the bin number (R134). -/
def checkDetail : CheckSel → Nat
  | .yield => 0
  | .bin b => b

/-- The mask of a check as a limit set holds it; none for a bin the step does not monitor. -/
def LimitSet.mask (m : LimitSet) : CheckSel → Option Mask
  | .yield => some m.yieldMask
  | .bin b => (m.entries.find? fun e => e.bin = b).map (·.mask)

/-- The checks of a step in the order an evaluation makes them (R130). -/
def LimitSet.checks (m : LimitSet) : List CheckSel := .yield :: m.entries.map fun e => .bin e.bin

/-- The marking of a LIMIT report (R134's table). -/
def marking (mask : Mask) (waived : Bool) : Marking :=
  match mask, waived with
  | .masked, _ => .masked
  | .unmasked, true => .waived
  | .unmasked, false => .held

/-- What an evaluation names: the lot, the portion, in-flight or final, and the first-pass sum. -/
structure Evaluation where
  lot : LotSlot
  portion : Nat
  final : Bool
  t : Nat
  deriving DecidableEq, Repr

/-- A check whose condition holds: a clear flag sets, with its LIMIT report and its hold event when unmasked and unwaived (R134);
a set flag adds an occurrence to an open hold of its reason (R135). -/
def conditionHolds (rnd : Round) (e : Evaluation) (k : CheckSel) (mask : Mask) (figure bound : Nat) (s : State) : State :=
  match s.lot e.lot with
  | none => s
  | some l =>
    let r := s.tally e.lot
    match r.flag k with
    | none =>
      let m := marking mask (r.waive.has k)
      let s1 := modTally e.lot (fun r => r.setFlag k (some ⟨e.portion, s.floorTime, figure, bound⟩)) s
      let s2 := raise (.limit l.id l.stepIndex k e.final e.portion e.t figure bound m) s1
      if m = .held then mergeHold rnd e.lot (checkReason k) e.portion (checkDetail k) s2 else s2
    | some f =>
      if mask = .unmasked && !r.waive.has k && l.heldFor (checkReason k) then
        mergeHold rnd e.lot (checkReason k) f.portion (checkDetail k) s
      else s

/-- The yield check: its condition holds when Y is below Fy (R131). -/
def yieldCheck (rnd : Round) (e : Evaluation) (m : LimitSet) (s : State) : State :=
  let y := fraction ((s.tally e.lot).first.bin 1) e.t
  if y < m.yieldFloor then conditionHolds rnd e .yield m.yieldMask y m.yieldFloor s else s

/-- The bin check of a monitored entry: its condition holds when P_b is above E_b (R133). -/
def binCheck (rnd : Round) (e : Evaluation) (product : ProductIx) (step : Nat) (m : MonEntry) (s : State) : State :=
  let p := fraction ((s.tally e.lot).first.bin m.bin) e.t
  let bound := effectiveCeiling m (s.baseline product step m.bin)
  if bound < p then conditionHolds rnd e (.bin m.bin) m.mask p bound s else s

/-- An evaluation of a lot's first-pass tally (R130, R136); a SCRAPPING or SCRAPPED lot is not evaluated. -/
def evaluate (rnd : Round) (x : LotSlot) (portion : Nat) (final : Bool) (s : State) : State :=
  match s.lot x with
  | none => s
  | some l =>
    match s.stepOf l with
    | none => s
    | some st =>
      if l.state = .scrapping || l.state = .scrapped then s
      else
        let t := (s.tally x).first.sum
        match evalClass t st.limits.minSample with
        | .empty => s
        | .small =>
          if final then modLot x (fun l => { l with small := true }) (modTally x (fun r => { r with smallAtFinal := true }) s)
          else s
        | .full =>
          let e : Evaluation := ⟨x, portion, final, t⟩
          st.limits.entries.foldl (fun s m => binCheck rnd e l.product l.stepIndex m s) (yieldCheck rnd e st.limits s)

/-! ### Events that reach a lot step record -/

/-- The record emptied and the check mark cleared: the step-left event (R124, R158). -/
def stepLeft (x : LotSlot) (s : State) : State := setCheckMark x false (modTally x (fun _ => LotStepRec.empty) s)

/-- A lot-removed event: the Release Unit and the Tally and Limit Unit discard what they hold for the lot (R39, R40). -/
def lotRemoved (x : LotSlot) (s : State) : State :=
  stepLeft x { s with summaries := s.summaries.set x.val (Vector.replicate 4 none) x.isLt }

/-- A waive event: the checks named join the waive set (R137). -/
def waiveChecks (x : LotSlot) (ks : List CheckSel) (s : State) : State :=
  modTally x (fun r => { r with waive := ks.foldl WaiveSet.add r.waive }) s

/-- The monitored bins whose flag is set and unmasked: what the release of a BINLIMIT record waives (R32, R137). -/
def waivedBins (r : LotStepRec) (m : LimitSet) : List CheckSel :=
  (m.entries.filter fun e => (r.flag (.bin e.bin)).isSome && e.mask = .unmasked).map fun e => .bin e.bin

/-- A retest event: the flag of the disposed reason clears, for BINLIMIT every bin flag (R138). -/
def clearRetestFlags (r : HoldReason) (t : LotStepRec) : LotStepRec :=
  match r with
  | .yield => { t with yieldFlag := none }
  | .binlimit => { t with binFlags := Vector.replicate 16 none }
  | .check | .count | .program | .engineering | .qa => t

/-- The route position is STEP-OPEN or STEP-HELD. -/
def RoutePos.atStep : RoutePos → Bool
  | .stepOpen | .stepHeld => true
  | .qaSample | .qaFailed | .routeEnd => false

/-- An unmask event at one lot: a hold event when the lot stands at the step with the flag set and not waived (R139). -/
def unmaskLot (rnd : Round) (i : ProductIx) (step : Nat) (k : CheckSel) (s : State) (x : LotSlot) : State :=
  match s.lot x with
  | none => s
  | some l =>
    if l.product = i && l.stepIndex = step && l.route.atStep && l.state ≠ .scrapping then
      match (s.tally x).flag k with
      | some f => if (s.tally x).waive.has k then s else mergeHold rnd x (checkReason k) f.portion (checkDetail k) s
      | none => s
    else s

/-- An unmask event: the lots are examined in ascending order of slot (R139). -/
def unmaskEvent (rnd : Round) (i : ProductIx) (step : Nat) (k : CheckSel) (s : State) : State :=
  (List.finRange 128).foldl (unmaskLot rnd i step k) s

/-- A bin is among some monitored entries. -/
def monitored (es : List MonEntry) (bin : Nat) : Bool := es.any fun e => e.bin = bin

/-- A record without the flags of bins that the step does not monitor: such a bin has no flag (R123). -/
def LotStepRec.trim (es : List MonEntry) (r : LotStepRec) : LotStepRec :=
  { r with binFlags := Vector.ofFn fun (i : Fin 16) => if monitored es (i.val + 1) then r.binFlags.get i else none }

/-- An imported record without the flags and waivers of bins the step does not monitor now (R140, item 1). -/
def trimImported (es : List MonEntry) (r : LotStepRec) : LotStepRec :=
  { r.trim es with
    waive := { r.waive with
      bins := (es.map (·.bin)).foldl (fun a b => if BinSet.has r.waive.bins b then BinSet.add a b else a) 0 } }

/-- The monitored entries of a lot's current step as the product table holds them now (R123). -/
def State.entriesOf (s : State) (l : Lot) : List MonEntry := match s.stepOf l with | some st => st.limits.entries | none => []

/-- The record of a lot of a product with its bin flags brought to the monitored entries as the product table holds them now; that of
any other lot as it is (R123). -/
def State.trimmedTally (s : State) (i : ProductIx) (x : LotSlot) : LotStepRec :=
  match s.lot x with
  | some l => if l.product = i then (s.tally x).trim (s.entriesOf l) else s.tally x
  | none => s.tally x

/-- The lot step records with those of a product's lots so brought. -/
def State.trimmedTallies (s : State) (i : ProductIx) : Vector LotStepRec 128 := Vector.ofFn (s.trimmedTally i)

/-- The bin flags of every lot of a product follow the monitored entries as the product table holds them now (R123). -/
def trimFlags (i : ProductIx) (s : State) : State := { s with tallies := s.trimmedTallies i }

/-- One flag of an imported record reviewed: set, unmasked and unwaived it hands a hold event, which the import leaves
aside when the list as imported holds a record of the reason (R41, R140, item 2). -/
def reviewFlag (rnd : Round) (x : LotSlot) (imported : List Hold) (m : LimitSet) (s : State) (k : CheckSel) : State :=
  match (s.tally x).flag k with
  | none => s
  | some f =>
    if m.mask k = some .unmasked && !(s.tally x).waive.has k && !(imported.any fun h => h.reason = checkReason k) then
      mergeHold rnd x (checkReason k) f.portion (checkDetail k) s
    else s

/-- The review of an imported lot step record: the yield flag first, then the bin flags in the step's order (R140). -/
def reviewImport (rnd : Round) (x : LotSlot) (imported : List Hold) (m : LimitSet) (s : State) : State :=
  m.checks.foldl (reviewFlag rnd x imported m) s

/-! ### Baselines -/

/-- The division rnd(a / d): nearest, halves away from zero (R148). -/
def rndDiv (a : Int) (d : Nat) : Int :=
  if 0 ≤ a then ((2 * a.natAbs + d) / (2 * d) : Nat) else -((2 * a.natAbs + d) / (2 * d) : Nat)

/-- The update of a baseline with a sample (R149). -/
def updateBaseline (b : Baseline) (x : Nat) : Baseline :=
  if b.n = 0 then ⟨1, x, 0⟩
  else
    let d := if b.n < 8 then b.n + 1 else 8
    let diff : Int := (x : Int) - b.mean
    ⟨satInc 255 b.n, (b.mean + rndDiv diff d).toNat, (b.dev + rndDiv ((diff.natAbs : Int) - b.dev) d).toNat⟩

/-- The update of one monitored entry from a closing lot's summary: passed over when the first-pass T is below M (R147). -/
def learnEntry (i : ProductIx) (step m : Nat) (u : Summary) (s : State) (e : MonEntry) : State :=
  if u.firstT < m || u.firstT = 0 then s
  else setBaseline i step e.bin (updateBaseline (s.baseline i step e.bin) (fraction (u.firstCounts.bin e.bin) u.firstT)) s

/-- The updates of one step of a closing lot (R147). A step of the route without a summary, which R147 leaves open, is passed over
(assumption 41). -/
def learnStep (x : LotSlot) (i : ProductIx) (s : State) (k : Nat) : State :=
  match s.summary x k, (s.product i).bind fun p => p.step k with
  | some u, some st => st.limits.entries.foldl (learnEntry i k st.limits.minSample u) s
  | _, _ => s

/-- An accepted-lot event: an eligible lot's steps are taken in route order (R147). -/
def acceptedLot (x : LotSlot) (l : Lot) (s : State) : State :=
  if l.baselineEligible then [1, 2, 3, 4].foldl (learnStep x l.product) s else s

end Sys2Proof.Machine
end

