-- ==== Sys2Proof/Machine/Summaries.lean ====
section
/-! DEFINITION. The Release Unit's step summaries: build (R156), rebuild (R157) and the conservation relation (R159). -/

namespace Sys2Proof.Machine

open Sys2Proof

/-- The sum of a figure over some portions. -/
def sumOf (f : Portion → Nat) (ps : List Portion) : Nat := (ps.map f).sum

/-- The summary of a lot's current step as a first pass completes (R156). -/
def builtSummary (l : Lot) (st : StepRec) (t : LotStepRec) (mark : Bool) : Summary where
  step := l.stepIndex
  program := st.program
  retestBins := st.retestBins
  qs := sumOf (·.q) (l.passPortions .first)
  firstCounts := t.first
  firstT := t.first.sum
  firstL := sumOf (·.l) (l.passPortions .first)
  retestIncluded := false
  rq := 0
  retestCounts := Counts.zero
  retestT := 0
  retestL := 0
  finalCounts := t.first
  finalGood := t.first.bin 1
  revisions := l.revisionsUsed
  yieldFlag := t.yieldFlag
  binFlags := t.binFlags
  waive := t.waive
  smallAtFinal := t.smallAtFinal
  checkRaised := mark

/-- The final counts after a retest: the retest count for a bin of the retest bin set, else the sum of both (R157). -/
def finalCounts (bins : BinSet) (first retest : Counts) : Counts :=
  Vector.ofFn fun (i : Fin 16) =>
    if BinSet.has bins (i.val + 1) then retest.bin (i.val + 1) else first.bin (i.val + 1) + retest.bin (i.val + 1)

/-- A summary rebuilt as a retest pass completes (R157). -/
def rebuiltSummary (u : Summary) (l : Lot) (t : LotStepRec) (mark : Bool) : Summary :=
  { u with
    retestIncluded := true
    rq := sumOf (·.q) (l.passPortions .retest)
    retestCounts := t.retest
    retestT := t.retest.sum
    retestL := sumOf (·.l) (l.passPortions .retest)
    finalCounts := finalCounts u.retestBins u.firstCounts t.retest
    finalGood := (finalCounts u.retestBins u.firstCounts t.retest).bin 1
    revisions := l.revisionsUsed
    yieldFlag := t.yieldFlag
    binFlags := t.binFlags
    waive := t.waive
    smallAtFinal := t.smallAtFinal
    checkRaised := mark }

/-- A summary event: the summary is built or rebuilt with the record folded in as it stands (R136, R156, R157). R157 does not say what
a retest pass makes where the step has no summary: none is made (assumption 41). -/
def summaryEvent (x : LotSlot) (pass : Pass) (s : State) : State :=
  match s.lot x with
  | none => s
  | some l =>
    match pass with
    | .first =>
      match s.stepOf l with
      | none => s
      | some st => setSummary x (builtSummary l st (s.tally x) (s.checkMark x)) s
    | .retest =>
      match s.summary x l.stepIndex with
      | none => s
      | some u => setSummary x (rebuiltSummary u l (s.tally x) (s.checkMark x)) s

/-- The sum of some counts over a bin set. -/
def sumOver (c : Counts) (bins : BinSet) : Nat := ((BinSet.bins bins).map c.bin).sum

/-- The final good of the summary at a step (R27), 0 where there is none (assumption 41). -/
def State.finalGood (s : State) (x : LotSlot) (step : Nat) : Nat :=
  match s.summary x step with | some u => u.finalGood | none => 0

/-- The eight parts of the conservation relation (R159), in order. Part 7 fails where the step before has no summary, which R159 leaves
open (assumption 41); part 8 counts an imported revision as often as the summary holds it (assumption 42). -/
def conservation (s : State) (x : LotSlot) (l : Lot) (u : Summary) : List Bool :=
  [ u.firstT == u.firstCounts.sum && u.retestT == u.retestCounts.sum,
    u.firstT + u.firstL == u.qs,
    u.retestIncluded || (u.rq == 0 && u.retestT == 0 && u.retestL == 0),
    !u.retestIncluded || (1 ≤ u.rq && u.retestT + u.retestL == u.rq && u.rq == sumOver u.firstCounts u.retestBins),
    u.finalCounts.sum + u.firstL + u.retestL == u.qs,
    u.finalGood == u.finalCounts.bin 1 && u.finalGood ≤ u.qs,
    if u.step = 1 then u.qs == l.startQty
      else match s.summary x (u.step - 1) with | some v => u.qs == v.finalGood | none => false,
    1 ≤ u.revisions.length && u.revisions.length ≤ 4 ]

/-- The number of the first part of R159 that fails, if one does. -/
def firstFailing (parts : List Bool) : Option Nat := (parts.findIdx? fun b => !b).map (· + 1)

/-- A summary satisfies the conservation relation (R159). -/
def conserves (s : State) (x : LotSlot) (l : Lot) (u : Summary) : Bool := (conservation s x l u).all id

end Sys2Proof.Machine
end

