-- ==== Sys2Proof/Machine/Passes.lean ====
section
/-! DEFINITION. The Lot Manager's passes: splitting and queuing (R22), a portion leaving its cell and the settlement of its units (R24, R25),
pass completion (R26), proceeding (R27), and the end of a scrapped lot (R35). -/

namespace Sys2Proof.Machine

open Sys2Proof

/-! ### Queuing a pass (R22) -/

/-- The quotient a / b rounded up. -/
def ceilDiv (a b : Nat) : Nat := (a + b - 1) / b

/-- The sizes of the portions of a pass of quantity `qs`, with the split size and the cap (R22). -/
def portionSizes (split cap qs : Nat) : List Nat :=
  if split = 0 ∨ qs ≤ split then [qs]
  else
    let size := if ceilDiv qs split ≤ cap then split else ceilDiv qs cap
    let n := ceilDiv qs size
    List.replicate (n - 1) size ++ [qs - size * (n - 1)]

/-- The most portions a pass may have (R22). -/
def passCap : Pass → Nat
  | .first => 8 | .retest => 4

/-- The number of a pass's first portion (R22). -/
def passBase : Pass → Nat
  | .first => 1 | .retest => 9

/-- A new portion record (R22). -/
def newPortion (number q : Nat) : Portion :=
  { number := number, state := .queued, q := q, t := 0, r := q, l := 0, h := 0, revision := none, placedRevs := [],
    runCount := 0, firstProduction := none, endTime := none, damaged := 0 }

/-- New portion records, numbered on from a base. -/
def newPortions : Nat → List Nat → List Portion
  | _, [] => []
  | n, q :: qs => newPortion n q :: newPortions (n + 1) qs

/-- A pass is queued: its portions are made, beside the first-pass records for a retest, the step-ready time is set, and the lot's
entry is needed (R22). -/
def queuePass (rnd : Round) (x : LotSlot) (pass : Pass) (qs : Nat) (s : State) : State :=
  let s1 := modLot x (fun l =>
    { l with
      portions := (if pass = .first then [] else l.passPortions .first) ++ newPortions (passBase pass) (portionSizes l.split (passCap pass) qs)
      retest := pass == .retest || l.retest
      stepReady := s.floorTime }) s
  entryNeeded rnd x (refreshLot x s1)

/-! ### Proceeding from STEP-HELD (R27) -/

/-- A lot enters NO-YIELD: its entry leaves the wait list, the live-lot count falls, and it leaves its shipment (R27), which R163 has
OPEN or CHECKING then (assumption 51). -/
def enterNoYield (x : LotSlot) (i : ProductIx) (s : State) : State :=
  memberRemoved x (dropLive i (removeEntry x (setLotState x .noYield s)))

/-- A lot proceeds from STEP-HELD: to NO-YIELD, to its next step, to QA-SAMPLE or to ROUTE-END (R27); the step-left event
comes first (R124). -/
def proceed (rnd : Round) (x : LotSlot) (s : State) : State :=
  match s.lot x with
  | none => s
  | some l =>
    match s.product l.product with
    | none => s
    | some p =>
      let good := s.finalGood x l.stepIndex
      let s1 := stepLeft x s
      if good = 0 then enterNoYield x l.product s1
      else if l.stepIndex < p.steps.length then
        queuePass rnd x .first good
          (modLot x (fun l => { l with stepIndex := l.stepIndex + 1, route := .stepOpen, retest := false, portions := [] }) s1)
      else if 0 < p.qaSample then refreshLot x (modLot x (fun l => { l with route := .qaSample }) s1)
      else refreshLot x (modLot x (fun l => { l with route := .routeEnd }) s1)

/-! ### Pass completion (R26) -/

/-- The current pass is complete: the route position is STEP-OPEN and every portion of the pass is DONE (R26). -/
def Lot.passComplete (l : Lot) : Bool := l.route == .stepOpen && (l.passPortions l.pass).all fun p => p.state == .done

/-- The lowest-numbered portion of a pass with L above 0 (R26). -/
def firstLoss (ps : List Portion) : Nat := match ps.find? fun p => 0 < p.l with | some p => p.number | none => 0

/-- A pass completes, through the portion that became DONE last (R26). With an empty hold list the lot proceeds within the event, and
no LOT-STATE is sent for the states it passes through there (assumption 38). -/
def completePass (rnd : Round) (x : LotSlot) (last : Nat) (s : State) : State :=
  match s.lot x with
  | none => s
  | some l =>
    let s1 := if l.pass = .first then evaluate rnd x last true s else s
    let s2 := summaryEvent x l.pass s1
    let loss := sumOf (·.l) (l.passPortions l.pass)
    let s3 := if 0 < loss then mergeHold rnd x .count (firstLoss (l.passPortions l.pass)) loss s2 else s2
    let s4 := raise (.stepDone l.id l.stepIndex l.pass (s3.finalGood x l.stepIndex)) s3
    let s5 := modLot x (fun l => { l with route := .stepHeld }) s4
    match s5.lot x with
    | some l5 => if l5.holds.isEmpty then proceed rnd x s5 else refreshLot x s5
    | none => s5

/-! ### Scrapped lots (R35) -/

/-- A lot enters SCRAPPED and the live-lot count falls (R35). -/
def enterScrapped (x : LotSlot) (i : ProductIx) (s : State) : State := dropLive i (setLotState x .scrapped s)

/-- A SCRAPPING lot enters SCRAPPED when no portion of it is at a cell (R35). -/
def scrapCheck (x : LotSlot) (s : State) : State :=
  match s.lot x with
  | none => s
  | some l => if l.state = .scrapping && !(l.portions.any Portion.atCell) then enterScrapped x l.product s else s

/-! ### A portion leaves its cell (R25) -/

/-- The counts of a PURGED with count F: F taken as H where it exceeds H (R25). -/
def settlePurged (f : Nat) (p : Portion) : Portion := { p with r := p.r + min f p.h, l := p.l + (p.h - f), h := 0 }

/-- The counts of a purge timeout, or of a CELL-CLEAR on an OFFLINE cell: L rises by H (R25). -/
def settleLost (p : Portion) : Portion := { p with l := p.l + p.h, h := 0 }

/-- A portion of a SCRAPPING lot that leaves its cell, or a QUEUED portion of a scrapped lot: R is added to L, DONE (R25, R35). -/
def scrapPortion (time : Nat) (p : Portion) : Portion :=
  { p with l := p.l + p.r, r := 0, state := .done, endTime := some time }

/-- The portion in a cell's current slot, its counts settled, leaves the slot: QUEUED with R above 0, else DONE with its end
time, and then the pass may complete; for a SCRAPPING lot always DONE (R25, R26). `decide` is no while a SCRAP is still
handing its aborts, after which it decides the lot's state itself (R35). The lot's state is recomputed once, after a pass completion
(assumption 38). -/
def leaveCell (rnd : Round) (decide : Bool) (c : CellId) (s : State) : State :=
  match (s.cell c).current with
  | none => s
  | some ref =>
    let s1 := modCell c (fun x => { x with current := none }) s
    match s.lot ref.lot with
    | none => s1
    | some l =>
      match l.portion ref.portion with
      | none => s1
      | some p =>
        if l.state = .scrapping then
          let s2 := modPortion ref (scrapPortion s.floorTime) s1
          if decide then scrapCheck ref.lot s2 else s2
        else if 0 < p.r then
          entryNeeded rnd ref.lot (refreshLot ref.lot (modPortion ref (fun p => { p with state := .queued }) s1))
        else
          let s2 := modPortion ref (fun p => { p with state := .done, endTime := some s.floorTime }) s1
          match s2.lot ref.lot with
          | some l2 => if l2.passComplete then completePass rnd ref.lot ref.portion s2 else refreshLot ref.lot s2
          | none => s2

/-- A purge with count F reaches the Lot Manager: the counts are settled, a count above H raises a COUNT hold at once, and
the portion leaves (R25). -/
def purgePortion (rnd : Round) (c : CellId) (f : Nat) (s : State) : State :=
  match (s.cell c).current with
  | none => s
  | some ref =>
    match (s.lot ref.lot).bind fun l => l.portion ref.portion with
    | none => leaveCell rnd true c s
    | some p =>
      let s1 := modPortion ref (settlePurged f) s
      let s2 := if p.h < f then mergeHold rnd ref.lot .count ref.portion (f - p.h) s1 else s1
      leaveCell rnd true c s2

/-- A portion whose units in the handler are lost leaves its cell (R25, purge timeout and CELL-CLEAR on an OFFLINE cell). -/
def losePortion (rnd : Round) (decide : Bool) (c : CellId) (s : State) : State :=
  match (s.cell c).current with
  | none => s
  | some ref => leaveCell rnd decide c (modPortion ref settleLost s)

end Sys2Proof.Machine
end

