-- ==== Sys2Proof/Machine/Cells.lean ====
section
/-! DEFINITION. The Cell Manager's operations: the setup check, loading, soak and START (R49 to R51), resumption (R53), draining and site
limits (R58, R59), purge and the pending portion (R46, R47), RUN-END (R57), link loss and clearing (R62, R63), touchdowns
(R65). Each takes the offer round as an argument. -/

namespace Sys2Proof.Machine

open Sys2Proof

/-! ### Load results (R51) -/

/-- A failed load reaches the Cell Manager: no program loaded, the portion leaves, the failure is counted for SOURCE,
TRANSFER and TIMEOUT, and the cell goes DOWN at the third or else IDLE. ABORTED is discarded, and so is an event that does
not find the cell LOADING (R51). -/
def loadFailed (rnd : Round) (c : CellId) (e : LoadError) (s : State) : State :=
  if (s.cell c).state = .loading && e ≠ .aborted then
    let s1 := leaveCell rnd true c (modCell c (fun x => { x with program := none }) s)
    let s2 := modCell c (fun x =>
      { x.dropHold with loadFailures := if e.counted then x.loadFailures + 1 else x.loadFailures }) s1
    let s3 :=
      if 3 ≤ (s2.cell c).loadFailures then setCellState c .down (modCell c (fun x => { x with fault := .load }) s2)
      else setCellState c .idle (modCell c (fun x => { x with cleared := true }) s2)
    updateWaiting rnd c s3
  else s

/-- An active load fails with an error, and its load-done event follows (R101). -/
def endLoad (rnd : Round) (c : CellId) (e : LoadError) (s : State) : State :=
  if (s.load c).active then loadFailed rnd c e (failLoad c e s) else s

/-- A load in progress fails with ABORTED (R102). Its load-done event is discarded (R51), and the cell's loaded program becomes none,
as after every failed load (R103; assumption 39). -/
def abortLoad (c : CellId) (s : State) : State :=
  if (s.load c).active then modCell c (fun x => { x with program := none }) (failLoad c .aborted s) else s

/-! ### Soak and START (R50) -/

/-- Entry to SOAKING: SOAK is sent, the soak timer starts, the dwell timer stops (R50). -/
def enterSoaking (c : CellId) (s : State) : State :=
  match s.currentWork c with
  | none => s
  | some (_, _, _, st) =>
    setCellState c .soaking
      (modCell c (fun x => { x with soakTimer := some st.soakTimeout, dwellTimer := none }) (sendFrame c (.soak st.tempClass) s))

/-- The counts of a portion at START: R moves into H, which is 0 before it (R49), the run count rises and saturates at 255 (R24). In
a state where H is not 0, which only a context record that a host composes leads to, the units of H stay in it, so that Q = T + R + L
+ H stays as R24 says (assumption 43). -/
def startPortion (p : Portion) : Portion := { p with h := p.h + p.r, r := 0, runCount := satInc 255 p.runCount }

/-- START is sent: R moves into H, the port opens the run, the counts of the run begin at 0, the cell is RUNNING (R24, R50,
R112, R126, R128). R24 has no portion with R = 0 come to a START; one that a context record brings is started with quantity 0
(assumption 43). -/
def startRun (rnd : Round) (c : CellId) (s : State) : State :=
  match s.currentWork c with
  | none => s
  | some (ref, l, p, _) =>
    let q := startPortion p
    let s1 := modPortion ref startPortion s
    let s2 := sendFrame c (.start l.id l.stepIndex q.number q.h (s.cell c).enabled q.runCount) (modPort c Port.openRun s1)
    let s3 := setRunGroups c 0 (modCell c (fun x =>
      { x with runStarted := true, runTested := 0, consec := Vector.replicate 8 0, dwellTimer := none }) s2)
    updateWaiting rnd c (setCellState c .running s3)

/-- The dwell timer expires in SOAKING: START, or RESUME for a run already started (R50). -/
def dwellEnds (rnd : Round) (c : CellId) (s : State) : State :=
  if (s.cell c).runStarted then
    updateWaiting rnd c
      (setCellState c .running (modCell c (fun x => { x with dwellTimer := none }) (sendFrame c .resume s)))
  else startRun rnd c s

/-! ### The setup check (R49) -/

/-- The setup check from its second item: pause, program, soak (R49). -/
def setupFromPause (rnd : Round) (c : CellId) (s : State) : State :=
  match s.currentWork c with
  | none => s
  | some (_, _, p, st) =>
    if !(s.cell c).pause.isEmpty then setCellState c .paused s
    else if (s.cell c).program = p.revision.map fun r => ⟨st.program, r⟩ then enterSoaking c s
    else
      let want : ProgramRev := ⟨st.program, p.revision.getD 0⟩
      let r := startLoad c want (setCellState c .loading s)
      if r.2 then r.1 else loadFailed rnd c .suspended r.1

/-- The setup check from its first item: a kit that differs puts the cell in RESERVED with a CHANGEOVER report (R49). -/
def setupCheck (rnd : Round) (c : CellId) (s : State) : State :=
  match s.currentWork c with
  | none => s
  | some (_, l, p, st) =>
    if (s.cell c).kit = some st.kit then setupFromPause rnd c s
    else raise (.changeover c l.id p.number st.kit (s.cell c).kit) (setCellState c .reserved s)

/-- A good load reaches the Cell Manager: the program is loaded, the failures are forgotten, the setup check is made again
(R51). -/
def loadGood (rnd : Round) (c : CellId) (s : State) : State :=
  if (s.cell c).state = .loading then
    setupCheck rnd c (modCell c (fun x => { x with program := (s.load c).program, loadFailures := 0 }) s)
  else s

/-! ### Resumption (R53) -/

/-- The pause-reason set has become empty: the cell acts by its state (R53). -/
def resumeCell (rnd : Round) (c : CellId) (s : State) : State :=
  let x := s.cell c
  match x.state with
  | .paused =>
    if !x.runStarted then setupCheck rnd c s
    else if x.runTested = 0 then enterSoaking c s
    else updateWaiting rnd c (setCellState c .running (sendFrame c .resume s))
  | .idle => updateWaiting rnd c s
  | .offline | .purging | .reserved | .loading | .soaking | .running | .draining | .down => s

/-- A pause reason is removed (R53); the removal of an absent one changes nothing. -/
def removePause (rnd : Round) (c : CellId) (r : PauseReason) (s : State) : State :=
  if (s.cell c).pause.has r then
    let s1 := modCell c (fun x => { x with pause := x.pause.drop r }) s
    if (s1.cell c).pause.isEmpty then resumeCell rnd c s1 else s1
  else s

/-- A hold-removed event: discarded when the named portion is no longer in the current slot (R54). -/
def holdRemoved (rnd : Round) (c : CellId) (ref : PortionRef) (s : State) : State :=
  if (s.cell c).current = some ref then removePause rnd c .hold s else s

/-! ### Draining and sites (R58, R59) -/

/-- STOP is sent, any pending portion returns, the soak and dwell timers stop, and the cell enters DRAINING (R58, R59). -/
def drain (rnd : Round) (c : CellId) (s : State) : State :=
  let s1 := returnPending rnd c (sendFrame c .stop s)
  updateWaiting rnd c (setCellState c .draining (modCell c (fun x => { x with soakTimer := none, dwellTimer := none }) s1))

/-- A run under way that a drain would end: RUNNING, or PAUSED or SOAKING with the run started (R52, R58, R59). -/
def Cell.inRun (x : Cell) : Bool := x.state == .running || ((x.state == .paused || x.state == .soaking) && x.runStarted)

/-- A site-limit event: SITE-OFF, the site-off set, the report, and a drain when too few sites are left (R58). -/
def siteLimit (rnd : Round) (c : CellId) (site : Nat) (s : State) : State :=
  if SiteSet.has (s.cell c).siteOff site then s
  else
    match s.currentWork c with
    | none => s
    | some (_, l, p, st) =>
      let s1 := modCell c (fun x => { x with siteOff := SiteSet.add x.siteOff site }) (sendFrame c (.siteOff site) s)
      let s2 := raise (.siteOff c site l.id p.number ((s.cell c).consec.toList.getD site 0)) s1
      if (s2.cell c).inRun && SiteSet.size (s2.cell c).enabled < st.minSites then drain rnd c s2 else s2

/-! ### Touchdowns and the contactor (R65, R66) -/

/-- MAINTENANCE-DUE as the limit and the counter give it (R66). -/
def Cell.due (x : Cell) : Bool := x.contactorLimit ≠ 0 && x.contactorLimit ≤ x.lifetime

/-- MAINTENANCE-DUE set to a value; from no to yes it sends a MAINTENANCE report and returns a pending portion (R65, R66). -/
def setDue (rnd : Round) (c : CellId) (due : Bool) (s : State) : State :=
  let x := s.cell c
  let s1 := modCell c (fun x => { x with maintenanceDue := due }) s
  let s2 := if due && !x.maintenanceDue then returnPending rnd c (raise (.maintenance c x.lifetime x.contactorLimit) s1) else s1
  updateWaiting rnd c s2

/-- A touchdown event: the lifetime counter rises, and when it reaches the limit MAINTENANCE-DUE sets (R65). -/
def touchdown (rnd : Round) (c : CellId) (s : State) : State :=
  let s1 := modCell c (fun x => { x with lifetime := satInc top32 x.lifetime }) s
  if (s1.cell c).due && !(s1.cell c).maintenanceDue then setDue rnd c true s1 else s1

/-! ### Purge and idle (R46, R47) -/

/-- The conditions a pending portion must meet when its cell comes to IDLE (R47). -/
def pendingFits (s : State) (c : CellId) (ref : PortionRef) : Bool :=
  match s.work ref with
  | none => false
  | some (l, p, st) =>
    let x := s.cell c
    match p.revision with
    | none => false
    | some r =>
      x.pause.isEmpty && !x.maintenanceDue && l.holds.isEmpty && x.kit == some st.kit && x.program == some ⟨st.program, r⟩
        && s.approved st.program r && st.minSites ≤ SiteSet.size x.enabled

/-- A cell that has come to IDLE with a portion in its pending slot: the portion moves to the current slot and the cell
soaks, or the portion returns to QUEUED (R47). -/
def pendingMove (rnd : Round) (c : CellId) (s : State) : State :=
  match (s.cell c).pendingSlot with
  | none => s
  | some ref =>
    if pendingFits s c ref then
      let s1 := modCell c (fun x => { x with pendingSlot := none, current := some ref, cleared := false }) s
      enterSoaking c (refreshLot ref.lot (modPortion ref (fun p => { p with state := .atCell c }) s1))
    else returnPending rnd c s

/-- A PURGED in PURGING (R46). -/
def purgeDone (rnd : Round) (c : CellId) (f : Nat) (s : State) : State :=
  let s1 := purgePortion rnd c f (modCell c (fun x => { x with purgeTimer := none }) s)
  let s2 := modCell c (fun x => { x.dropHold with runStarted := false, cleared := true }) s1
  if (s2.cell c).downAfterPurge then
    updateWaiting rnd c (setCellState c .down (modCell c (fun x => { x with downAfterPurge := false }) s2))
  else updateWaiting rnd c (pendingMove rnd c (setCellState c .idle s2))

/-- The purge timer expires in PURGING (R46). -/
def purgeExpires (rnd : Round) (c : CellId) (s : State) : State :=
  let s1 := losePortion rnd true c (modCell c (fun x => { x with purgeTimer := none }) s)
  let s2 := modCell c (fun x =>
    { x.dropHold with runStarted := false, cleared := false, fault := .purge, downAfterPurge := false }) s1
  updateWaiting rnd c (setCellState c .down (returnPending rnd c s2))

/-! ### Soak timeout (R50) -/

/-- The soak timer expires in SOAKING: ABORT, and DOWN at once or, with the run started, after a purge (R50). -/
def soakExpires (rnd : Round) (c : CellId) (s : State) : State :=
  let s0 := sendAbort c (modCell c (fun x => { x with soakTimer := none }) s)
  if (s.cell c).runStarted then
    let s1 := modCell c (fun x => { x with fault := .soak, downAfterPurge := true, purgeTimer := some 600 }) (sendFrame c .purge s0)
    updateWaiting rnd c (setCellState c .purging (returnPending rnd c s1))
  else
    let s1 := modCell c (fun x => { x.dropHold with fault := .soak }) (leaveCell rnd true c s0)
    updateWaiting rnd c (setCellState c .down s1)

/-! ### Link loss and clearing (R62, R63, R121) -/

/-- The port at a link loss: receiver hunting, transmit list empty, silence timer stopped, intake cleared (R110, R113, R121). -/
def Port.linkLost (p : Port) : Port := { p.clearIntake with rx := Receiver.hunting, txList := [], silence := none }

/-- A link loss (R62). -/
def linkLoss (rnd : Round) (c : CellId) (s : State) : State :=
  let s1 := modPort c Port.linkLost (modCell c (fun x =>
    { x.stopTimers with linkUp := false, pause := x.pause.drop .jam }) s)
  let s2 := returnPending rnd c (abortLoad c s1)
  let x := s2.cell c
  let s3 :=
    if x.runStarted || x.state = .purging || x.state = .draining || x.current.isNone then s2
    else modCell c Cell.dropHold (leaveCell rnd true c s2)
  updateWaiting rnd c (if (s3.cell c).state = .down then s3 else setCellState c .offline s3)

/-- A CELL-CLEAR, or the abort event of a SCRAP: the cell's work is abandoned (R63). -/
def clearCell (rnd : Round) (decide : Bool) (c : CellId) (s : State) : State :=
  let s1 := abortLoad c (modCell c Cell.stopTimers s)
  let s2 := returnPending rnd c (modPort c Port.clearIntake s1)
  let s3 := modCell c (fun x =>
    { x with program := none, siteOff := 0, consec := Vector.replicate 8 0, pause := x.pause.drop .jam }) s2
  let x := s3.cell c
  if x.online then
    let s4 := startPurge c (sendAbort c s3)
    let s5 := if x.runStarted || x.current.isNone then s4 else modCell c Cell.dropHold (leaveCell rnd decide c s4)
    updateWaiting rnd c s5
  else if x.state = .offline then
    updateWaiting rnd c (modCell c (fun x => { x.dropHold with runStarted := false }) (losePortion rnd decide c s3))
  else updateWaiting rnd c s3

/-- An abort event: discarded when the named portion is no longer in the cell's current slot (R63). -/
def abortEvent (rnd : Round) (c : CellId) (ref : PortionRef) (s : State) : State :=
  if (s.cell c).current = some ref then clearCell rnd false c s else s

/-! ### RUN-END (R57, R120) -/

/-- A record of a group, other than MALFORMED and with the setup flag set (R57, R115). -/
def IntakeRecord.isSetup (r : IntakeRecord) : Bool := r.status ≠ .malformed && r.flags.getLsbD 0

/-- The damaged-group count of the cell's current portion rises, saturating at 255 (R24). -/
def damagedGroup (c : CellId) (s : State) : State :=
  match (s.cell c).current with
  | none => s
  | some ref => modPortion ref (fun p => { p with damaged := satInc 255 p.damaged }) s

/-- A port's group, emptied. -/
def Port.dropGroup (p : Port) : Port := { p with group := [], groupCount := 0 }

/-- The states in which a RUN-END ends the run (R57). -/
def Cell.endsRun (x : Cell) : Bool := x.inRun || x.state == .draining

/-- The held RUN-END is handed to the Cell Manager: the partial group is discarded, the compare is made, PURGE is sent
(R57, R120). -/
def runEndHanded (rnd : Round) (c : CellId) (e : HeldRunEnd) (s : State) : State :=
  let s0 := modPort c (fun p => { p with heldRunEnd := none }) s
  if (s0.cell c).endsRun then
    let p := s0.port c
    let s1 := modPort c Port.dropGroup s0
    let s2 := if p.groupCount = 0 || p.group.all IntakeRecord.isSetup then s1 else damagedGroup c s1
    let s3 :=
      match (s2.cell c).current with
      | some ref =>
        if e.tested.toNat ≠ (s2.cell c).runTested || e.check ≠ (s2.port c).resultCheck then
          mergeHold rnd ref.lot .check ref.portion 0 s2
        else s2
      | none => s2
    let s4 := modCell c (fun x => { x with soakTimer := none, dwellTimer := none }) s3
    updateWaiting rnd c (startPurge c s4)
  else s0

end Sys2Proof.Machine
end

