-- ==== Sys2Proof/Machine/Dispatcher.lean ====
section
/-! DEFINITION. The Dispatcher's offers: candidates (R75), the winner (R76), the placement and what it changes (R48, R77, R78, R79), and the
offer round (R79, R80). -/

namespace Sys2Proof.Machine

open Sys2Proof

/-- A lot is eligible: its hold list is empty and the catalog holds its step's program at the current revision APPROVED
(R75, conditions 1 and 2). -/
def State.eligible (s : State) (l : Lot) : Bool :=
  match s.stepOf l with
  | none => false
  | some st => l.holds.isEmpty && s.approved st.program st.revision

/-- A step suits a cell: its class is among the cell's classes and its minimum sites are enabled (R75, conditions 3 and 4). -/
def Cell.suits (x : Cell) (st : StepRec) : Bool :=
  (match x.classes with
    | none => false
    | some cs => cs.getLsbD (match st.tempClass with | .cold => 0 | .room => 1 | .hot => 2))
  && st.minSites ≤ SiteSet.size x.enabled

/-- A step runs under the setup of the portion a cell carries: same kit, program, revision and class (R75, conditions 5 to
7). -/
def sameSetup (p : Portion) (now st : StepRec) : Bool :=
  st.kit == now.kit && st.program == now.program && p.revision == some st.revision && st.tempClass == now.tempClass

/-- An entry is a candidate for a cell (R75): all conditions for a RUNNING cell, the first four for any other. -/
def candidate (s : State) (c : CellId) (e : WaitEntry) : Bool :=
  match s.lot e.lot with
  | none => false
  | some l =>
    match s.stepOf l with
    | none => false
    | some st =>
      s.eligible l && (s.cell c).suits st &&
        ((s.cell c).state != .running ||
          match s.currentWork c with
          | none => false
          | some (_, _, p, now) => sameSetup p now st)

/-- An entry's step is a setup match for a cell: the installed kit and the loaded program (R76). -/
def setupMatch (s : State) (c : CellId) (e : WaitEntry) : Bool :=
  match (s.lot e.lot).bind s.stepOf with
  | none => false
  | some st => (s.cell c).kit == some st.kit && (s.cell c).program == some ⟨st.program, st.revision⟩

/-- The candidates for a cell in the highest band that holds one, in list order (R76). -/
def bandCandidates (s : State) (c : CellId) : List WaitEntry :=
  match s.waitList.filter (candidate s c) with
  | [] => []
  | e :: es => e :: es.filter fun f => f.priority = e.priority

/-- The winner of an offer: the first candidate of the band that has reached the aging limit, else the first setup match,
else the first (R76). -/
def winner (s : State) (c : CellId) : Option WaitEntry :=
  let band := bandCandidates s c
  match band.find? fun e => s.agingLimit ≤ e.skip with
  | some e => some e
  | none =>
    match band.find? (setupMatch s c) with
    | some e => some e
    | none => band.head?

/-- The lots of the candidates that stand ahead of the winner in its band: those that are passed over (R78). -/
def passedOver (s : State) (c : CellId) (w : WaitEntry) : List LotSlot :=
  ((bandCandidates s c).takeWhile fun e => e.lot ≠ w.lot).map (·.lot)

/-- The skip counts after a taken placement (R78). -/
def bumpSkips (passed : List LotSlot) (w : LotSlot) (es : List WaitEntry) : List WaitEntry :=
  es.map fun e =>
    if e.lot = w then { e with skip := 0 } else if passed.contains e.lot then { e with skip := satInc 15 e.skip } else e

/-- The Cell Manager takes a placement: the current slot of an IDLE cell that is empty, or the pending slot of a RUNNING one
(R48). -/
def Cell.takes (x : Cell) : Bool :=
  (x.state == .idle && x.current.isNone) || (x.state == .running && x.pendingSlot.isNone)

/-- A portion recorded under a revision as it is placed (R23). -/
def recordRevision (st : PortionState) (r : Nat) (p : Portion) : Portion :=
  { p with state := st, revision := some r, placedRevs := insertRev r p.placedRevs }

/-- A taken placement of a lot's portion on a cell (R48, R49, R77): the slot is filled and the cell stops waiting, the portion
records its revision, the skip counts and the pointer move, an entry without QUEUED portions leaves; then a full offer
reserves the cell and makes the setup check. -/
def place (rnd : Round) (c : CellId) (w : WaitEntry) (p : Portion) (r : Nat) (s : State) : State :=
  let passed := passedOver s c w
  let ref : PortionRef := ⟨w.lot, p.number⟩
  let full := (s.cell c).state = .idle
  let s1 := setWaiting c false (modCell c (fun x =>
    if full then { x with current := some ref, cleared := false } else { x with pendingSlot := some ref }) s)
  let s2 := refreshLot w.lot (modPortion ref (recordRevision (if full then .atCell c else .pending c) r) s1)
  let s3 := { s2 with waitList := bumpSkips passed w.lot s2.waitList, pointer := c + 1 }
  let s4 := if (match s3.lot w.lot with | some l => l.queuedPortions.isEmpty | none => true) then removeEntry w.lot s3 else s3
  if full then setupCheck rnd c (setCellState c .reserved s4) else s4

/-- An offer to one waiting cell (R75 to R78): the winner's lowest-numbered QUEUED portion is placed; with no candidate, or a
placement the Cell Manager would refuse, nothing changes. -/
def offer (rnd : Round) (c : CellId) (s : State) : State :=
  match winner s c with
  | none => s
  | some w =>
    match s.lot w.lot with
    | none => s
    | some l =>
      match s.stepOf l, l.queuedPortions.head? with
      | some st, some p => if (s.cell c).takes then place rnd c w p st.revision s else s
      | _, _ => s

/-- An offer round, given what a round asked for within it does (R79): the members as they stand at its start, once each in
cyclic order from the pointer; a member that has left is passed. -/
def offerRoundWith (rnd : Round) (s : State) : State :=
  (cyclicFrom s.pointer).foldl
    (fun t c => if s.waiting.get c && t.waiting.get c then offer rnd c t else t) s

/-- The offer round (R79, R80). A placement made inside it asks for no further round (assumption 6). -/
def offerRound : Round := offerRoundWith id

end Sys2Proof.Machine
end

