-- ==== Sys2Proof/Machine/Operands.lean ====
section
/-! DEFINITION. The forms and ranges of request fields (R2, R3, R19, R186): which values are refused and which are clamped. -/

namespace Sys2Proof.Machine

open Sys2Proof

/-- A valid text field of 1 to `max` characters (00_scope, Conventions; R186). -/
def validText (max : Nat) (t : Text) : Bool := 1 ≤ t.length && t.length ≤ max && t.all textChar

/-- A lot id, shipment id, program name or station name. -/
def validName (t : Text) : Bool := validText 16 t

/-- A product code. -/
def validCode (t : Text) : Bool := validText 10 t

/-- A kit code. -/
def validKit (t : Text) : Bool := validText 8 t

/-- The characters of a fixed text field of at most `max` characters; none for a field with an unused bit or out of range (R174, R186). -/
def takeText (max : Nat) (field : List Byte) : Option Text :=
  match readFixedText field with
  | .value t => if t.length ≤ max then some t else none
  | .unusedBit | .outOfRange => none

/-- A value in a range, inclusive at both ends. -/
def within (lo hi n : Nat) : Bool := lo ≤ n && n ≤ hi

/-- A tuning value taken to the nearest end of its range (00_scope, Conventions; R177). -/
def clamp (lo hi n : Nat) : Nat := if n < lo then lo else if hi < n then hi else n

/-- A program revision (R12). -/
def validRevision (n : Nat) : Bool := within 1 65535 n

/-- One of the site counts 1, 2, 4 and 8 (R2, R43). -/
def validSites (n : Nat) : Bool := n == 1 || n == 2 || n == 4 || n == 8

/-- A bin set that may hold fail bins only: bit 0 is 0 (R2, R186). -/
def failBinsOnly (x : BinSet) : Bool := readFailBins ((x >>> 8).setWidth 8) (x.setWidth 8) = .value x

/-- A ppm figure. -/
def validPpm (n : Nat) : Bool := n ≤ 1000000

/-- A cell number of a request; none outside 0 to 15 (R43). -/
def cellOf (n : Nat) : Option CellId := if h : n < 16 then some ⟨n, h⟩ else none

/-- A contactor limit as taken: 0, or clamped to 1,000 to 4,000,000,000 (R66). -/
def contactorTaken (n : Nat) : Nat := if n = 0 then 0 else clamp 1000 4000000000 n

/-- A monitored bin entry as stored: refused when a field is out of range, K clamped (R3). -/
def takeEntry (e : MonEntryReq) : Option MonEntry :=
  match e.mode, maskOfByte e.mask with
  | some mode, some mask =>
    if within 2 16 e.bin && validPpm e.ceiling && e.floor ≤ e.ceiling then
      some ⟨e.bin, e.ceiling, e.floor, mode, clamp 4 32 e.k, mask⟩
    else none
  | _, _ => none

/-- A list of values each taken or refused: refused when one is. -/
def takeAll {α β : Type} (f : α → Option β) : List α → Option (List β)
  | [] => some []
  | x :: xs => match f x, takeAll f xs with | some y, some ys => some (y :: ys) | _, _ => none

/-- The consecutive-fail limits: 0 (off), or 2 to 255 (R3). -/
def validConsec (n : Nat) : Bool := n == 0 || within 2 255 n

/-- A step record as stored: refused when a field is out of range, soak timeout, dwell and each K clamped (R2, R3). -/
def takeStep (r : StepReq) : Option StepRec :=
  match tempClassOfByte r.tempClass, maskOfByte r.yieldMask, takeAll takeEntry r.entries, takeText 16 r.program, takeText 8 r.kit with
  | some cls, some mask, some es, some program, some kit =>
    if validRevision r.revision && validSites r.minSites && failBinsOnly r.retestBins
        && validPpm r.yieldFloor && within 1 65535 r.minSample && validConsec r.consecFail
        && es.length ≤ 4 && (es.map (·.bin)).Nodup then
      some { tempClass := cls, program := program, revision := r.revision, kit := kit, minSites := r.minSites,
             soakTimeout := clamp 60 7200 r.soakTimeout, dwell := clamp 0 1800 r.dwell, retestBins := r.retestBins,
             limits := ⟨r.yieldFloor, mask, r.minSample, r.consecFail, es⟩ }
    else none
  | _, _, _, _, _ => none

/-- A product definition as stored, or none when a field is refused BAD_FIELD (R4, item 1). -/
def takeProduct (r : ProductReq) : Option Product :=
  match takeText 10 r.code with
  | some code =>
    if within 1 4 r.routeLength && r.steps.length == r.routeLength && r.qaSample ≤ 500 then
      (takeAll takeStep r.steps).map fun steps => ⟨code, steps, r.qaSample, 0⟩
    else none
  | none => none

/-! ### The lot context record (R41, item 1) -/

/-- A floor time. -/
def validTime (n : Nat) : Bool := n ≤ top32

/-- A portion record of a context: its fields in range, QUEUED or DONE, H = 0 and Q = T + R + L + H (R23, R41). R41 does not name a
QUEUED portion with R = 0 or a DONE one with R above 0; both are taken (assumption 43). -/
def validPortion (p : Portion) : Bool :=
  within 1 12 p.number && (p.state == .queued || p.state == .done) && within 1 65535 p.q && p.h == 0
    && p.q == p.t + p.r + p.l + p.h
    && (match p.revision with | none => true | some r => validRevision r) && p.placedRevs.all validRevision
    && p.runCount ≤ 255 && p.damaged ≤ 255
    && (match p.firstProduction with | none => true | some t => validTime t)
    && (match p.endTime with | none => true | some t => validTime t)

/-- A hold record of a context (R28). -/
def validHold (h : Hold) : Bool :=
  validTime h.time && within 1 255 h.occurrences && within 1 4 h.step && h.portion ≤ 12 && h.detail ≤ 65535

/-- The stored values of a flag (R123), which gives no range for the portion number: 0 to 12 is taken (DESIGN CHOICE, assumption 50). -/
def validFlag : Option FlagValues → Bool
  | none => true
  | some f => f.portion ≤ 12 && validTime f.time && validPpm f.figure && validPpm f.bound

/-- The bin flags of a record: the values of each in range, and none for bin 1, since a bin flag's bin is 2 to 16 (R123). -/
def validBinFlags (flags : Vector (Option FlagValues) 16) : Bool := flags.toList.all validFlag && (flags.get 0).isNone

/-- Sixteen counts in range (R123). -/
def validCounts (c : Counts) : Bool := c.toList.all (· ≤ 65535)

/-- The lot step record of a context (R123). R41 asks for no sum within the pass's quantity, and none is asked here: such a record is
taken, and its tallies count on from there without bound (assumption 34). -/
def validTally (t : LotStepRec) : Bool :=
  validCounts t.first && validCounts t.retest && validFlag t.yieldFlag && validBinFlags t.binFlags
    && failBinsOnly t.waive.bins

/-- A step summary of a context (R155). Revisions used that repeat are taken as they are, and counted each (assumption 42). -/
def validSummary (m : Summary) : Bool :=
  within 1 4 m.step && validName m.program && failBinsOnly m.retestBins && within 1 65535 m.qs && validCounts m.firstCounts
    && m.firstT ≤ 65535 && m.firstL ≤ 65535 && m.rq ≤ 65535 && validCounts m.retestCounts && m.retestT ≤ 65535
    && m.retestL ≤ 65535 && validCounts m.finalCounts && m.finalGood ≤ 65535
    && within 1 4 m.revisions.length && m.revisions.all validRevision
    && validFlag m.yieldFlag && validBinFlags m.binFlags && failBinsOnly m.waive.bins

/-- How many portion records of a pass a context holds (R19). -/
def LotContext.portionsOf (c : LotContext) (pass : Pass) : Nat := (c.portions.filter fun p => passOf p.number = pass).length

/-- The text fields of a context as they arrive. -/
def LotContext.texts (c : LotContext) : List Text := c.id :: c.productCode :: (c.routePrograms ++ c.summaries.map (·.program))

/-- A text field of a context holds an unused bit (R174, R186). -/
def LotContext.padded (c : LotContext) : Bool := c.texts.any fun t => readFixedText t = .unusedBit

/-- A context with the characters of its text fields (R186). -/
def LotContext.read (c : LotContext) : LotContext :=
  { c with
    id := fieldChars c.id
    productCode := fieldChars c.productCode
    routePrograms := c.routePrograms.map fieldChars
    summaries := c.summaries.map fun m => { m with program := fieldChars m.program } }

/-- Every field of a lot context record lies in its range and the counts close (R19, R41, item 1; assumption 19). -/
def validContext (c : LotContext) : Bool :=
  validName c.id && c.product ≤ 15 && validCode c.productCode && within 1 4 c.routePrograms.length
    && c.routePrograms.all validName
    && c.priority ≤ 3 && within 1 65535 c.startQty && c.split ≤ 65535 && within 1 4 c.stepIndex
    && validTime c.stepReady && validTime c.regTime
    && c.holds.all validHold && (c.holds.map (·.reason)).Nodup
    && c.portions.all validPortion && within 1 8 (c.portionsOf .first) && c.portionsOf .retest ≤ 4
    && c.summaries.all validSummary && validTally c.tally

/-- A portion record put at its number's place; one of the same number gives way to it. -/
def insertPortion (p : Portion) : List Portion → List Portion
  | [] => [p]
  | x :: xs =>
    if p.number < x.number then p :: x :: xs else if p.number = x.number then p :: xs else x :: insertPortion p xs

/-- The portion records of a context as the lot table keeps them, in ascending number (assumption 19). -/
def LotContext.kept (c : LotContext) : List Portion := c.portions.foldl (fun ps p => insertPortion p ps) []

end Sys2Proof.Machine
end

