-- ==== Sys2Proof/Machine/HostLink.lean ====
section
/-! DEFINITION. The Host Link Unit and the Floor Clock (Chapter 10): how a proved request is taken, refused busy or discarded (R174 to
R177), the host line's events (R173, R178), and the requests these two blocks own (R180 to R182). -/

namespace Sys2Proof.Machine

open Sys2Proof

/-! ### Taking requests -/

/-- What the owner of a request does: the state it leaves and its answer. -/
abbrev Owner := State → State × Answer

/-- A request refused by its owner: nothing changes (R174). -/
def refuse (r : Reason) (s : State) : State × Answer := (s, ⟨.refused r, .none⟩)

/-- A request answered OK. -/
def accept (b : ReplyBody) (s : State) : State × Answer := (s, ⟨.ok, b⟩)

/-- The Host Link Unit's state, changed. -/
def modHost (f : HostLink → HostLink) (s : State) : State := { s with host := f s.host }

/-- The number of full replies among the entries of a reply queue (R176). -/
def fullReplies (es : List ReplyEntry) : Nat :=
  (es.filter fun e => match e with | .full _ _ _ => true | .busy _ _ => false).length

/-- An entry joins the tail of the reply queue (R176). -/
def queueReply (e : ReplyEntry) (s : State) : State := modHost (fun h => { h with replies := h.replies ++ [e] }) s

/-- A frame proved on the host line (R175, R176): below 8 full replies it is taken and its reply joins the tail; else it gets a
busy entry, or with 16 entries is discarded and counted. -/
def provedFrame (tag : BitVec 16) (kind : ReplyKind) (own : Owner) (s : State) : State :=
  let s0 := modHost (fun h => { h with rx := Receiver.between }) s
  if fullReplies s0.host.replies < 8 then
    let r := own s0
    queueReply (.full tag kind r.2) r.1
  else if s0.host.replies.length < 16 then queueReply (.busy tag kind) s0
  else modHost (fun h => { h with lostRequests := satInc 255 h.lostRequests }) s0

/-- A request proved on the host line: refused BAD_FIELD with tag 0, else handed to its owner (R174); then an idle line
takes its next frame. -/
def takeRequest (tag : BitVec 16) (k : RequestKind) (own : Owner) (s : State) : State :=
  settleHost (provedFrame tag (.request k) (fun t => if tag = 0 then refuse .badField t else own t) s)

/-- A fixed text field of a request: an unused bit in its pad refuses the request BAD_FIELD before its owner sees it; else the owner
gets the characters, and answers by its own rule where they lie out of range (R174, R186). -/
def withText (field : List Byte) (own : Text → Owner) : Owner :=
  match readFixedText field with
  | .unusedBit => refuse .badField
  | .value t => own t
  | .outOfRange => own (fieldChars field)

/-! ### Frames the Host Link Unit refuses itself -/

/-- The reason the Host Link Unit gives (R174). -/
def frameFaultReason : FrameFault → Reason
  | .unknownKind _ => .unknownKind
  | .badForm _ => .badField

/-- The kind the reply copies (R174, R188). -/
def frameFaultKind : FrameFault → ReplyKind
  | .unknownKind b => .other b
  | .badForm k => .request k

/-- UNKNOWN_KIND: a proved frame that the Host Link Unit refuses itself (R174). -/
def execUnknownKind (tag : BitVec 16) (fault : FrameFault) (s : State) : Host.Outcome State Fault Refusal :=
  .next (settleHost (provedFrame tag (frameFaultKind fault) (refuse (frameFaultReason fault)) s))

/-! ### The host line -/

/-- HOST_CANDIDATE_FAIL: bytes arrive at the host receiver, and each candidate among them that fails raises the receive error
count (R173; assumption 21). -/
def execHostCandidateFail (bytes : List Byte) (s : State) : Host.Outcome State Fault Refusal :=
  .next (settleHost (modHost (fun h =>
    { h with rx := (receiveHost h.rx bytes).1, rxErrors := satAdd 255 h.rxErrors (receiveHost h.rx bytes).2 }) s))

/-- HOST_LINE_BREAK: any candidate is abandoned, the receiver hunts, the count rises (R173). -/
def execHostLineBreak (s : State) : Host.Outcome State Fault Refusal :=
  .next (settleHost (modHost (fun h => { h with rx := Receiver.hunting, rxErrors := satInc 255 h.rxErrors }) s))

/-- The end of the frame under way: a reply leaves its queue, and the transmitter takes the next frame (R176, R178). -/
def frameSent (h : HostLink) : HostLink :=
  match h.tx with
  | none => h
  | some .reply => nextHostFrame { h with replies := h.replies.tail }
  | some (.report _ _) => nextHostFrame h

/-- HOST_FRAME_SENT: the last byte of the frame under way has been sent (R178). -/
def execHostFrameSent (s : State) : Host.Outcome State Fault Refusal :=
  .next (settleHost (modHost frameSent s))

/-! ### The Floor Clock -/

/-- FLOOR_TIME_TICK: a second ends and floor time rises, saturating (R180). -/
def execFloorTimeTick (s : State) : Host.Outcome State Fault Refusal :=
  .next (settleHost { s with floorTime := satInc top32 s.floorTime, secondPhase := 0 })

/-- SET-TIME: the count takes the value and a new second begins (R180). -/
def setTime (time : BitVec 32) : Owner := fun s =>
  accept (.time s.floorTime time.toNat) { s with floorTime := time.toNat, secondPhase := 0 }

/-- SET_TIME (R180). -/
def execSetTime (tag : BitVec 16) (time : BitVec 32) (s : State) : Host.Outcome State Fault Refusal :=
  .next (takeRequest tag .setTime (setTime time) s)

/-! ### IDENTIFY and FLOOR-STATUS -/

/-- What IDENTIFY reports (R181). -/
def identity (s : State) : Identity where
  family := 0x1640
  revision := 1
  speed := s.host.speed
  cells := 16
  products := 16
  routeSteps := 4
  monitored := 4
  catalog := 32
  lots := 128
  waitList := 128
  buffers := 8
  bufferSize := 256
  shipments := 8
  members := 16
  tickets := 8
  reports := 64
  replies := 16
  fullReplies := 8
  time := s.floorTime

/-- IDENTIFY (R181). -/
def execIdentify (tag : BitVec 16) (s : State) : Host.Outcome State Fault Refusal :=
  .next (takeRequest tag .identify (fun t => accept (.identity (identity t)) t) s)

/-- The lot states in the order of R182. -/
def lotStates : List LotState :=
  [.waiting, .active, .parked, .qaWait, .complete, .released, .closed, .scrapping, .scrapped, .noYield]

/-- The cell states in the order of R44. -/
def cellStates : List CellState :=
  [.offline, .purging, .idle, .reserved, .loading, .soaking, .running, .paused, .draining, .down]

/-- How many members of a list meet a condition. -/
def countOf {α : Type} (p : α → Bool) (xs : List α) : Nat := (xs.filter p).length

/-- A shipment slot holds a shipment in a state. -/
def shipIn (st : ShipState) : Option Shipment → Bool
  | none => false
  | some h => h.state == st

/-- The counts FLOOR-STATUS carries (R182). -/
def floorView (s : State) : FloorView where
  time := s.floorTime
  lots := lotStates.map fun st => (st, countOf (fun x => x.2.state == st) s.lotList)
  freeLots := countOf Option.isNone s.lots.toList
  waitEntries := s.waitList.length
  productsFree := countOf Option.isNone s.products.toList
  productsDefined := countOf (fun p => match p with | some p => p.live == 0 | none => false) s.products.toList
  productsInUse := countOf (fun p => match p with | some p => p.live != 0 | none => false) s.products.toList
  approved := countOf (fun e => e.state == .approved) s.catalog
  suspended := countOf (fun e => e.state == .suspended) s.catalog
  unconfigured := countOf (fun x => !x.configured) s.cells.toList
  cells := cellStates.map fun st => (st, countOf (fun x => x.configured && x.state == st) s.cells.toList)
  maintenanceDue := countOf (·.maintenanceDue) s.cells.toList
  activeLoads := countOf (fun d => d.state == .wanting || d.state == .relaying || d.state == .verifying) s.loads.toList
  freeBuffers := s.freeBuffers
  shipsOpen := countOf (shipIn .open) s.ships.toList
  shipsChecking := countOf (shipIn .checking) s.ships.toList
  shipsReleased := countOf (shipIn .released) s.ships.toList
  tickets := s.tickets.length
  ticketCounter := s.ticketCounter
  reports := s.host.reports.length
  lostReports := s.host.lostReports
  lostRequests := s.host.lostRequests
  rxErrors := s.host.rxErrors

/-- FLOOR-STATUS: the counts, and the lost-request and receive error counts become 0 (R182). -/
def floorStatus : Owner := fun s =>
  accept (.floor (floorView s)) (modHost (fun h => { h with lostRequests := 0, rxErrors := 0 }) s)

/-- FLOOR_STATUS (R182). -/
def execFloorStatus (tag : BitVec 16) (s : State) : Host.Outcome State Fault Refusal :=
  .next (takeRequest tag .floorStatus floorStatus s)

end Sys2Proof.Machine
end

