-- ==== Sys2Proof/Machine/Catalog.lean ====
section
/-! DEFINITION. The program catalog requests of the Floor Records Store (R13 to R16) and suspension (R17, R18). -/

namespace Sys2Proof.Machine

open Sys2Proof

/-- An image length (R12). -/
def validLength (n : Nat) : Bool := within 1 16777215 n

/-- CATALOG-ADD (R13): the entry joins APPROVED, and its approval event runs an offer round (R80). -/
def catalogAdd (name : Text) (revision length : Nat) (check : BitVec 32) : Owner := fun s =>
  if !validName name || !validRevision revision || !validLength length then refuse .badField s
  else if (s.entry name revision).isSome then refuse .duplicate s
  else if 32 ≤ s.catalog.length then refuse .tableFull s
  else accept .none (offerRound { s with catalog := s.catalog ++ [⟨name, revision, length, check, .approved⟩] })

/-- CATALOG_ADD (R13). -/
def execCatalogAdd (tag : BitVec 16) (name : Text) (revision length : Nat) (check : BitVec 32) (s : State) :
    Host.Outcome State Fault Refusal :=
  .next (takeRequest tag .catalogAdd (withText name fun name => catalogAdd name revision length check) s)

/-! ### Suspension -/

/-- The state of a catalog entry, set. -/
def setCatState (name : Text) (revision : Nat) (st : CatState) (s : State) : State :=
  { s with catalog := s.catalog.map fun e => if e.name = name && e.revision = revision then { e with state := st } else e }

/-- A portion stands under a program revision: its step names the program, its recorded revision is that one (R17). -/
def State.underRevision (s : State) (v : ProgramRev) (l : Lot) (p : Portion) : Bool :=
  match s.stepOf l with
  | none => false
  | some st => st.program = v.name && p.revision = some v.revision

/-- The held lots of a suspension in ascending order of slot, each with its lowest-numbered AT-CELL portion under the
revision (R17, R18). -/
def heldLots (v : ProgramRev) (s : State) : List (LotSlot × Nat) :=
  s.lotList.filterMap fun x =>
    (x.2.portions.find? fun p => p.atCell && s.underRevision v x.2 p).map fun p => (x.1, p.number)

/-- The cells whose pending slots hold a portion under the revision, each with that portion, in ascending cell number: the order in
which step 2 of R18 returns them, which the manual leaves open (R17, R18; assumption 36). -/
def pendingUnder (v : ProgramRev) (s : State) : List (CellId × PortionRef) :=
  (List.finRange 16).filterMap fun c =>
    match (s.cell c).pendingSlot with
    | none => none
    | some ref =>
      match s.work ref with
      | none => none
      | some (l, p, _) => if s.underRevision v l p then some (c, ref) else none

/-- The cells whose active loads relay the revision, in ascending number: the order in which step 3 of R18 fails them, which the
manual leaves open (R17, R18; assumption 36). -/
def loadsUnder (v : ProgramRev) (s : State) : List CellId :=
  (List.finRange 16).filter fun c => (s.load c).active && (s.load c).program == some v

/-- A pending portion of the suspension's set that is still in its slot returns to QUEUED (R18, step 2). -/
def returnStillPending (rnd : Round) (s : State) (a : CellId × PortionRef) : State :=
  if (s.cell a.1).pendingSlot = some a.2 then updateWaiting rnd a.1 (returnPending rnd a.1 s) else s

/-- Every CHECKING shipment is invalidated (R163). -/
def invalidateChecking (s : State) : State :=
  { s with ships := s.ships.map fun h => h.map fun h => if h.state = .checking then h.invalidate else h }

/-- A suspension: its three sets are formed first, then holds, pending portions, loads and shipment checks follow in order
(R17, R18). -/
def suspend (rnd : Round) (v : ProgramRev) (s : State) : State :=
  let s0 := setCatState v.name v.revision .suspended s
  let lots := heldLots v s0
  let pend := pendingUnder v s0
  let loads := loadsUnder v s0
  let s1 := lots.foldl (fun s x => mergeHold rnd x.1 .program x.2 v.revision s) s0
  let s2 := pend.foldl (returnStillPending rnd) s1
  let s3 := loads.foldl (fun s c => endLoad rnd c .suspended s) s2
  invalidateChecking s3

/-- CATALOG-STATE (R14): a change to SUSPENDED is a suspension, a change to APPROVED hands an approval event. R14 gives the two reasons
no order; BAD_FIELD is checked before NOT_FOUND (assumption 35). -/
def catalogState (name : Text) (revision : Nat) (st : Option CatState) : Owner := fun s =>
  match st with
  | none => refuse .badField s
  | some st =>
    if !validName name || !validRevision revision then refuse .badField s
    else
      match s.entry name revision with
      | none => refuse .notFound s
      | some e =>
        if e.state = st then accept .none s
        else
          match st with
          | .suspended => accept .none (suspend offerRound ⟨name, revision⟩ s)
          | .approved => accept .none (offerRound (setCatState name revision .approved s))

/-- CATALOG_STATE (R14). -/
def execCatalogState (tag : BitVec 16) (name : Text) (revision : Nat) (st : Option CatState) (s : State) :
    Host.Outcome State Fault Refusal :=
  .next (takeRequest tag .catalogState (withText name fun name => catalogState name revision st) s)

/-! ### Removal and query -/

/-- A step record of any product names the entry (R15). -/
def stepNames (v : ProgramRev) (s : State) : Bool :=
  s.products.toList.any fun p =>
    match p with
    | none => false
    | some p => p.steps.any fun st => st.program = v.name && st.revision = v.revision

/-- A step summary of a lot that is not CLOSED names the entry (R15). -/
def summaryNames (v : ProgramRev) (s : State) : Bool :=
  s.lotList.any fun x => x.2.state ≠ .closed &&
    (s.summaryList x.1).any fun u => u.program = v.name && u.revisions.contains v.revision

/-- A portion of a lot that is not CLOSED has the revision recorded or placed, at a step that names the program (R15). -/
def portionNames (v : ProgramRev) (s : State) : Bool :=
  s.lotList.any fun x => x.2.state ≠ .closed &&
    (match s.stepOf x.2 with | some st => st.program = v.name | none => false) &&
    x.2.portions.any fun p => p.revision = some v.revision || p.placedRevs.contains v.revision

/-- A cell has the entry loaded, or an active load relays it (R15). -/
def cellNames (v : ProgramRev) (s : State) : Bool :=
  (s.cells.toList.any fun x => x.program == some v) || s.loads.toList.any fun d => d.active && d.program == some v

/-- CATALOG-REMOVE (R15). For an entry that is not held and that a step record names, R15 gives NOT_FOUND and IN_USE and no order;
NOT_FOUND is checked first (assumption 35). -/
def catalogRemove (name : Text) (revision : Nat) : Owner := fun s =>
  if !validName name || !validRevision revision then refuse .badField s
  else if (s.entry name revision).isNone then refuse .notFound s
  else
    let v : ProgramRev := ⟨name, revision⟩
    if stepNames v s || summaryNames v s || portionNames v s || cellNames v s then refuse .inUse s
    else accept .none { s with catalog := s.catalog.filter fun e => !(e.name = name && e.revision = revision) }

/-- CATALOG_REMOVE (R15). -/
def execCatalogRemove (tag : BitVec 16) (name : Text) (revision : Nat) (s : State) : Host.Outcome State Fault Refusal :=
  .next (takeRequest tag .catalogRemove (withText name fun name => catalogRemove name revision) s)

/-- CATALOG-QUERY (R16). -/
def catalogQuery (entry : Option ProgramRev) : Owner := fun s =>
  match entry with
  | none => accept (.entries s.catalog.length s.catalog) s
  | some v =>
    withText v.name (fun name s =>
      match s.entry name v.revision with
      | none => refuse .notFound s
      | some e => accept (.entry e) s) s

/-- CATALOG_QUERY (R16). -/
def execCatalogQuery (tag : BitVec 16) (entry : Option ProgramRev) (s : State) : Host.Outcome State Fault Refusal :=
  .next (takeRequest tag .catalogQuery (catalogQuery entry) s)

end Sys2Proof.Machine
end

