-- ==== Sys2Proof/Machine/CellRequests.lean ====
section
/-! DEFINITION. The cell requests (R56, R60, R61, R63, R64, R66 to R68) and CELL-ERR-RESET (R116). -/

namespace Sys2Proof.Machine

open Sys2Proof

/-- A request that names a configured cell: refused BAD_FIELD outside 0 to 15, WRONG_STATE when it is not configured (R43). -/
def onCell (n : Nat) (act : CellId → Owner) : Owner := fun s =>
  match cellOf n with
  | none => refuse .badField s
  | some c => if (s.cell c).configured then act c s else refuse .wrongState s

/-! ### CELL-CONFIGURE (R67) -/

/-- A cell record as CELL-CONFIGURE leaves it (R67). -/
def Cell.configure (name : Text) (speed limit lifetime interval : Nat) (x : Cell) : Cell :=
  { x with
    configured := true, stationName := some name, speed := speed, linkUp := false, siteCount := none, classes := none, kit := none,
    program := none, siteOff := 0, consec := Vector.replicate 8 0, lifetime := lifetime, contactorLimit := limit,
    loadFailures := 0, tallyInterval := interval }

/-- A port as CELL-CONFIGURE leaves it (R121). -/
def Port.configure (p : Port) : Port :=
  { p.clearIntake with
    rx := Receiver.hunting, txList := [], silence := none, lastTouchdown := none, resultCheck := 0xFFFF, flags := LinkFlags.clear }

/-- Another configured cell expects the same station name (R67, item 3). -/
def nameTaken (s : State) (c : CellId) (name : Text) : Bool :=
  (List.finRange 16).any fun d => d ≠ c && (s.cell d).configured && (s.cell d).stationName == some name

/-- CELL-CONFIGURE (R67). -/
def cellConfigure (n : Nat) (name : Text) (speed limit lifetime interval : Nat) : Owner := fun s =>
  match cellOf n with
  | none => refuse .badField s
  | some c =>
    if !validName name || !(speed == 115200 || speed == 460800) || !(lifetime ≤ top32) then refuse .badField s
    else if !((s.cell c).state == .offline || (s.cell c).state == .down) || (s.cell c).current.isSome then refuse .wrongState s
    else if nameTaken s c name then refuse .duplicate s
    else
      let lim := contactorTaken limit
      let int := clamp 0 255 interval
      let s1 := modCell c (Cell.configure name speed lim lifetime int) s
      let s2 := setRunGroups c 0 (modPort c Port.configure s1)
      accept (.configured name speed lim lifetime int) (setDue offerRound c (s2.cell c).due s2)

/-- CELL_CONFIGURE (R67). -/
def execCellConfigure (tag : BitVec 16) (cell : Nat) (name : Text) (speed limit lifetime interval : Nat) (s : State) :
    Host.Outcome State Fault Refusal :=
  .next (takeRequest tag .cellConfigure (withText name fun name => cellConfigure cell name speed limit lifetime interval) s)

/-! ### CELL-QUERY (R68) -/

/-- A slot of a cell as CELL-QUERY shows it. -/
def slotView (s : State) (ref : PortionRef) : SlotView := ⟨(s.lot ref.lot).map (·.id), ref.portion⟩

/-- What CELL-QUERY carries (R68, R121). -/
def cellView (s : State) (c : CellId) : CellView where
  cell := s.cell c
  enabled := (s.cell c).enabled
  current := (s.cell c).current.map (slotView s)
  pendingSlot := (s.cell c).pendingSlot.map (slotView s)
  currentH := (s.cell c).current.bind fun ref => (s.lot ref.lot).bind fun l => (l.portion ref.portion).map (·.h)
  load := if (s.cell c).state = .loading then some (s.load c) else none
  inStep := (s.port c).rx.inStep
  runOpen := (s.port c).runOpen
  queued := (s.port c).queue.length
  runEndHeld := (s.port c).heldRunEnd.isSome
  lastTouchdown := (s.port c).lastTouchdown
  resultCheck := (s.port c).resultCheck
  flags := (s.port c).flags

/-- CELL-QUERY (R68): taken for an unconfigured cell too. -/
def cellQuery (n : Nat) : Owner := fun s =>
  match cellOf n with
  | none => refuse .badField s
  | some c => accept (.cell (cellView s c)) s

/-- CELL_QUERY (R68). -/
def execCellQuery (tag : BitVec 16) (cell : Nat) (s : State) : Host.Outcome State Fault Refusal :=
  .next (takeRequest tag .cellQuery (cellQuery cell) s)

/-! ### CELL-PAUSE and CELL-RESUME (R56) -/

/-- The answer to CELL-PAUSE and CELL-RESUME: the state and the pause-reason set after the request. -/
def pauseAnswer (c : CellId) (s : State) : State × Answer := accept (.paused (s.cell c).state (s.cell c).pause) s

/-- CELL_PAUSE (R56). -/
def execCellPause (tag : BitVec 16) (cell : Nat) (s : State) : Host.Outcome State Fault Refusal :=
  .next (takeRequest tag .cellPause (onCell cell fun c t => pauseAnswer c (addPause c .operator t)) s)

/-- CELL_RESUME (R56). -/
def execCellResume (tag : BitVec 16) (cell : Nat) (s : State) : Host.Outcome State Fault Refusal :=
  .next (takeRequest tag .cellResume (onCell cell fun c t => pauseAnswer c (removePause offerRound c .operator t)) s)

/-! ### CELL-DOWN and CELL-UP (R60, R61) -/

/-- The answer that carries the cell's state after the request. -/
def stateAnswer (c : CellId) (s : State) : State × Answer := accept (.cellState (s.cell c).state) s

/-- A cell goes DOWN from a state in which its run has not started: its load is aborted, ABORT is sent, the portion leaves, HOLD
leaves the set (R60). -/
def downUnstarted (rnd : Round) (c : CellId) (s : State) : State :=
  let s1 := leaveCell rnd true c (sendAbort c (abortLoad c s))
  setCellState c .down (modCell c (fun x => { x.dropHold.stopTimers with fault := .none }) s1)

/-- CELL-DOWN in the states that take it (R60). -/
def takeDown (rnd : Round) (c : CellId) (s : State) : State :=
  let s1 := returnPending rnd c s
  let x := s.cell c
  updateWaiting rnd c <|
    match x.state with
    | .idle => setCellState c .down (modCell c (fun x => { x with fault := .none }) s1)
    | .reserved | .loading => downUnstarted rnd c s1
    | .soaking | .paused =>
      if x.runStarted then drain rnd c (modCell c (fun x => { x with downAfterPurge := true, fault := .none }) s1)
      else downUnstarted rnd c s1
    | .running => drain rnd c (modCell c (fun x => { x with downAfterPurge := true, fault := .none }) s1)
    | .draining | .purging => modCell c (fun x => { x with downAfterPurge := true }) s1
    | .offline | .down => s1

/-- CELL-DOWN (R60). -/
def cellDown (c : CellId) : Owner := fun s =>
  if (s.cell c).state = .offline || (s.cell c).state = .down then refuse .wrongState s
  else stateAnswer c (takeDown offerRound c s)

/-- CELL_DOWN (R60). -/
def execCellDown (tag : BitVec 16) (cell : Nat) (s : State) : Host.Outcome State Fault Refusal :=
  .next (takeRequest tag .cellDown (onCell cell cellDown) s)

/-- CELL-UP (R61). -/
def cellUp (c : CellId) : Owner := fun s =>
  if (s.cell c).state ≠ .down then refuse .wrongState s
  else
    let s1 := modCell c (fun x => { x with fault := .none, loadFailures := 0, downAfterPurge := false, runStarted := false }) s
    stateAnswer c (if (s.cell c).linkUp then startPurge c s1 else setCellState c .offline s1)

/-- CELL_UP (R61). -/
def execCellUp (tag : BitVec 16) (cell : Nat) (s : State) : Host.Outcome State Fault Refusal :=
  .next (takeRequest tag .cellUp (onCell cell cellUp) s)

/-! ### CELL-CLEAR, CELL-SITES-ON, CELL-CONTACTOR (R63, R64, R66) -/

/-- CELL_CLEAR (R63). -/
def execCellClear (tag : BitVec 16) (cell : Nat) (s : State) : Host.Outcome State Fault Refusal :=
  .next (takeRequest tag .cellClear (onCell cell fun c t => stateAnswer c (clearCell offerRound true c t)) s)

/-- The named sites leave the site-off set and their consecutive-fail counts become 0; a named site that was not off is taken without
effect, its count kept (R64; assumption 40). -/
def Cell.sitesOn (sites : SiteSet) (x : Cell) : Cell :=
  { x with
    siteOff := x.siteOff &&& ~~~sites
    consec := Vector.ofFn fun (i : Fin 8) => if SiteSet.has sites i.val && SiteSet.has x.siteOff i.val then 0 else x.consec.get i }

/-- The states in which sites may not be switched on (R64). -/
def Cell.busy (x : Cell) : Bool :=
  x.state == .running || x.state == .draining || ((x.state == .soaking || x.state == .paused) && x.runStarted)

/-- CELL-SITES-ON of sites from 0 to 7 (R64). -/
def cellSitesOn (sites : SiteSet) (c : CellId) : Owner := fun s =>
  if (s.cell c).busy then refuse .wrongState s
  else
    let s1 := modCell c (Cell.sitesOn sites) s
    let s2 := if (s1.cell c).enabled = (s.cell c).enabled then s1 else offerRound s1
    accept (.sites (s2.cell c).enabled) s2

/-- CELL_SITES_ON (R64): a site number above 7 is refused first (assumptions 29 and 46). -/
def execCellSitesOn (tag : BitVec 16) (cell sites : Nat) (s : State) : Host.Outcome State Fault Refusal :=
  .next (takeRequest tag .cellSitesOn (fun t =>
    match readSites sites with
    | .value set => onCell cell (cellSitesOn set) t
    | .unusedBit | .outOfRange => refuse .badField t) s)

/-- The two parts of CELL-CONTACTOR applied (R66). -/
def Cell.contactor (limit : Option Nat) (resetCounter : Bool) (x : Cell) : Cell :=
  { x with
    contactorLimit := match limit with | some n => contactorTaken n | none => x.contactorLimit
    lifetime := if resetCounter then 0 else x.lifetime }

/-- CELL-CONTACTOR (R66). -/
def cellContactor (limit : Option Nat) (resetCounter : Bool) (c : CellId) : Owner := fun s =>
  let s1 := modCell c (Cell.contactor limit resetCounter) s
  let s2 := setDue offerRound c (s1.cell c).due s1
  accept (.contactor (s2.cell c).contactorLimit (s2.cell c).lifetime (s2.cell c).maintenanceDue) s2

/-- CELL_CONTACTOR (R66). -/
def execCellContactor (tag : BitVec 16) (cell : Nat) (limit : Option Nat) (resetCounter : Bool) (s : State) :
    Host.Outcome State Fault Refusal :=
  .next (takeRequest tag .cellContactor (onCell cell (cellContactor limit resetCounter)) s)

/-! ### CELL-ERR-RESET (R116) -/

/-- CELL-ERR-RESET (R116): every flag cleared, the reply carries them as they stood. -/
def cellErrReset (c : CellId) : Owner := fun s =>
  accept (.flags (s.port c).flags) (modPort c (fun p => { p with flags := LinkFlags.clear }) s)

/-- CELL_ERR_RESET (R116). -/
def execCellErrReset (tag : BitVec 16) (cell : Nat) (s : State) : Host.Outcome State Fault Refusal :=
  .next (takeRequest tag .cellErrReset (onCell cell cellErrReset) s)

end Sys2Proof.Machine
end

