-- ==== Sys2Proof/Machine/DispatchRequests.lean ====
section
/-! DEFINITION. The Dispatcher's requests (R84, R85). -/

namespace Sys2Proof.Machine

open Sys2Proof

/-- The status of an entry: HELD, PROGRAM or ELIGIBLE (R84). -/
def entryStatus (s : State) (l : Lot) : EntryStatus :=
  if !l.holds.isEmpty then .held else if s.eligible l then .eligible else .program

/-- An entry as DISPATCH-QUERY shows it (R84). -/
def entryView (s : State) (e : WaitEntry) : Option EntryView :=
  (s.lot e.lot).map fun l =>
    ⟨l.id, e.lot, e.priority, e.stepReady, e.skip, l.stepIndex, l.pass, l.queuedPortions.length, entryStatus s l⟩

/-- The members of the waiting-cell set with their kinds (R74, R84), in ascending cell number: R84 gives the set no order (DESIGN CHOICE,
assumption 49). -/
def waitingKinds (s : State) : List (CellId × WaitKind) :=
  ((List.finRange 16).filter fun c => s.waiting.get c).map fun c =>
    (c, if (s.cell c).state = .running then .pullAhead else .idle)

/-- DISPATCH-QUERY (R84). -/
def dispatchQuery (start : Nat) : Owner := fun s =>
  if 127 < start then refuse .badField s
  else
    accept (.dispatch s.agingLimit s.pointer (waitingKinds s) s.waitList.length
      (((s.waitList.drop start).take 32).filterMap (entryView s))) s

/-- DISPATCH_QUERY (R84). -/
def execDispatchQuery (tag : BitVec 16) (start : Nat) (s : State) : Host.Outcome State Fault Refusal :=
  .next (takeRequest tag .dispatchQuery (dispatchQuery start) s)

/-- DISPATCH-AGING (R85): the limit is clamped to 1 to 15. -/
def dispatchAging (limit : Nat) : Owner := fun s =>
  accept (.aging (clamp 1 15 limit)) { s with agingLimit := clamp 1 15 limit }

/-- DISPATCH_AGING (R85). -/
def execDispatchAging (tag : BitVec 16) (limit : Nat) (s : State) : Host.Outcome State Fault Refusal :=
  .next (takeRequest tag .dispatchAging (dispatchAging limit) s)

end Sys2Proof.Machine
end

