-- ==== Sys2Proof/Machine/Shipments.lean ====
section
/-! DEFINITION. The Release Unit's operations on shipments and tickets: the five conditions of a check (R164), the issue of a ticket (R165),
acceptance (R166) and withdrawal (R167). -/

namespace Sys2Proof.Machine

open Sys2Proof

/-! ### The check (R164) -/

/-- Every revision of every summary of a lot is held APPROVED under the summary's program (R164, condition 3). -/
def revisionsApproved (s : State) (x : LotSlot) : Bool :=
  (s.summaryList x).all fun u => u.revisions.all fun r => s.approved u.program r

/-- Every summary conserves, and there is one for each step up to the current one (R164, condition 4). -/
def summariesClose (s : State) (x : LotSlot) (l : Lot) : Bool :=
  (s.summaryList x).all (conserves s x l) && (List.range l.stepIndex).all fun k => (s.summary x (k + 1)).isSome

/-- The number of the first condition a member fails, if it fails one (R164). -/
def memberFailure (s : State) (x : LotSlot) : Option Nat :=
  match s.lot x with
  | none => some 1
  | some l =>
    if l.state ≠ .complete then some 1
    else if !l.holds.isEmpty then some 2
    else if !revisionsApproved s x then some 3
    else if !summariesClose s x l then some 4
    else if s.finalGood x l.stepIndex = 0 then some 5
    else none

/-- How an examination ends: at a member that fails, or at a progress index. -/
inductive Examination where
  | failed (lot : LotSlot) (condition : Nat)
  | upTo (progress : Nat)
  deriving DecidableEq, Repr

/-- Members examined one by one from a progress index, as many as the first argument allows (R164). -/
def examine (s : State) (members : List LotSlot) : Nat → Nat → Examination
  | 0, p => .upTo p
  | n + 1, p =>
    match members[p]? with
    | none => .upTo p
    | some x =>
      match memberFailure s x with
      | some k => .failed x k
      | none => examine s members n (p + 1)

/-! ### Tickets (R165 to R167) -/

/-- The number after a ticket number, 65,535 being followed by 1 (R165). -/
def nextNumber (n : Nat) : Nat := if n < 65535 then n + 1 else 1

/-- The counter rises past any number still held by a ticket in the queue; one step more than there are tickets suffices
(R165). -/
def skipHeld (ts : List Ticket) : Nat → Nat → Nat
  | 0, n => n
  | k + 1, n => if ts.any fun t => t.number = n then skipHeld ts k (nextNumber n) else n

/-- The id of the lot in a slot; empty for a free slot. -/
def State.lotId (s : State) (x : LotSlot) : Text := match s.lot x with | some l => l.id | none => []

/-- The code of the product in a slot; empty for a FREE slot. -/
def State.productCode (s : State) (i : ProductIx) : Text := match s.product i with | some p => p.code | none => []

/-- The final good of a lot's last test step (R165). -/
def lastGood (s : State) (x : LotSlot) : Nat := match s.lot x with | some l => s.finalGood x l.stepIndex | none => 0

/-- The ticket of a shipment that is issued now (R165). -/
def newTicket (s : State) (h : Shipment) : Ticket :=
  ⟨s.ticketCounter, h.id, s.productCode h.product, h.members.length, (h.members.map (lastGood s)).sum, s.floorTime⟩

/-- The issue of a ticket: queue and counter, the shipment RELEASED, its lots RELEASED, the TICKET report (R165). R165 does not order the
lots; they are taken in member order (assumption 45). -/
def issueTicket (k : ShipSlot) (h : Shipment) (s : State) : State :=
  let t := newTicket s h
  let ts := s.tickets ++ [t]
  let s1 := { s with tickets := ts, ticketCounter := skipHeld ts (ts.length + 1) (nextNumber t.number) }
  let s2 := s1.setShip k (some { h with state := .released, progress := h.members.length, ticket := some t.number })
  let s3 := h.members.foldl (fun s x => refreshLot x s) s2
  raise (.ticket t (h.members.map s.lotId)) s3

/-- A ticket withdrawn: it leaves the queue, the shipment is OPEN, its lots return to COMPLETE, the report follows (R167). R167 does not
order the lots; they are taken in member order (assumption 45). -/
def withdraw (k : ShipSlot) (cause : WithdrawCause) (s : State) : State :=
  match s.ship k with
  | none => s
  | some h =>
    let n := h.ticket.getD 0
    let s1 := { s with tickets := s.tickets.filter fun t => some t.number ≠ h.ticket }
    let s2 := s1.setShip k (some { h.invalidate with ticket := none })
    let s3 := h.members.foldl (fun s x => refreshLot x s) s2
    raise (.ticketWithdrawn n h.id cause) s3

/-- A member of an accepted shipment closes: CLOSED, one live lot fewer, and its figures reach the baselines (R42, R147,
R166). -/
def closeMember (s : State) (x : LotSlot) : State :=
  match s.lot x with
  | none => s
  | some l => acceptedLot x l (dropLive l.product (setLotState x .closed s))

/-- The shipment a ticket number belongs to (R166). -/
def State.shipOfTicket (s : State) (n : Nat) : Option ShipSlot :=
  (List.finRange 8).find? fun k => match s.ship k with | some h => h.state = .released && h.ticket = some n | none => false

/-- The acceptance of a ticket: it leaves the queue, the members close in order, the slot is freed (R166). A ticket whose shipment is
no longer RELEASED, which only a composed context record leads to, leaves the queue and does no more (assumption 51). -/
def acceptTicket (n : Nat) (s : State) : State :=
  let s1 := { s with tickets := s.tickets.filter fun t => t.number ≠ n }
  match s1.shipOfTicket n with
  | none => s1
  | some k =>
    match s1.ship k with
    | none => s1
    | some h => (h.members.foldl closeMember s1).setShip k none

end Sys2Proof.Machine
end

