-- ==== Sys2Proof/Machine/LotRequests.lean ====
section
/-! DEFINITION. The lot requests other than LOT-DISPOSE (R21, R36 to R41). -/

namespace Sys2Proof.Machine

open Sys2Proof

/-- A lot as registration leaves it, before its first pass is queued (R21). -/
def newLot (id : Text) (i : ProductIx) (priority startQty split : Nat) (s : State) : Lot where
  id := id
  product := i
  priority := priority
  startQty := startQty
  split := split
  stepIndex := 1
  route := .stepOpen
  retest := false
  state := .waiting
  holds := []
  baselineEligible := true
  small := false
  stepReady := s.floorTime
  regTime := s.floorTime
  regNo := s.regCounter
  portions := []

/-- A lot enters the table: it takes its registration number, its product gains a live lot, and the records the other units
hold at the slot are empty (R19, R21, R124, R158). -/
def enterLot (x : LotSlot) (l : Lot) (s : State) : State :=
  addLive l.product ((lotRemoved x { s with regCounter := satInc top32 s.regCounter }).setLot x (some l))

/-- LOT-REGISTER (R21). -/
def lotRegister (id code : Text) (priority startQty split : Nat) : Owner := fun s =>
  if !validName id || !validCode code || !(priority ≤ 3) || !within 1 65535 startQty || !(split ≤ 65535) then
    refuse .badField s
  else if (s.findLot id).isSome then refuse .duplicate s
  else
    match s.findProduct code with
    | none => refuse .notFound s
    | some i =>
      match s.freeLot with
      | none => refuse .tableFull s
      | some x =>
        accept (.registered x (portionSizes split 8 startQty))
          (queuePass offerRound x .first startQty (enterLot x (newLot id i priority startQty split s) s))

/-- LOT_REGISTER (R21). -/
def execLotRegister (tag : BitVec 16) (id code : Text) (priority startQty split : Nat) (s : State) :
    Host.Outcome State Fault Refusal :=
  .next (takeRequest tag .lotRegister (withText id fun id => withText code fun code => lotRegister id code priority startQty split) s)

/-- A request that names a lot: refused BAD_FIELD for an invalid id, NOT_FOUND for an unknown lot. -/
def onLot (field : Text) (act : LotSlot → Lot → Owner) : Owner := withText field fun id s =>
  if !validName id then refuse .badField s
  else
    match s.findLot id with
    | none => refuse .notFound s
    | some x =>
      match s.lot x with
      | none => refuse .notFound s
      | some l => act x l s

/-- The occurrence count of a lot's record of a reason, 0 where there is none. -/
def Lot.occurrences (l : Lot) (r : HoldReason) : Nat :=
  match l.holds.find? fun h => h.reason = r with | some h => h.occurrences | none => 0

/-- LOT-HOLD on a lot in the table (R36): a RELEASED lot's ticket is withdrawn first. -/
def holdLot (x : LotSlot) (l : Lot) : Owner := fun s =>
  if l.state.direct then refuse .wrongState s
  else
    let s1 :=
      match s.shipOf x with
      | some k => if l.state = .released then withdraw k (.lotHold l.id) s else s
      | none => s
    let s2 := mergeHold offerRound x .engineering 0 0 s1
    accept (.occurrence (match s2.lot x with | some l => l.occurrences .engineering | none => 0)) s2

/-- LOT_HOLD (R36). -/
def execLotHold (tag : BitVec 16) (id : Text) (s : State) : Host.Outcome State Fault Refusal :=
  .next (takeRequest tag .lotHold (onLot id holdLot) s)

/-- LOT-PRIORITY on a lot in the table (R37). -/
def prioritise (priority : Nat) (x : LotSlot) (l : Lot) : Owner := fun s =>
  if l.state.direct then refuse .wrongState s
  else accept .none (priorityEvent offerRound x priority (s.setLot x (some { l with priority := priority })))

/-- LOT_PRIORITY (R37). Where several reasons hold R37 gives no order; BAD_FIELD is checked first, then NOT_FOUND, then WRONG_STATE
(assumption 35). -/
def execLotPriority (tag : BitVec 16) (id : Text) (priority : Nat) (s : State) : Host.Outcome State Fault Refusal :=
  .next (takeRequest tag .lotPriority (fun t => if 3 < priority then refuse .badField t else onLot id (prioritise priority) t) s)

/-- The id of the shipment a lot is a member of (R38). -/
def State.shipIdOf (s : State) (x : LotSlot) : Option Text := ((s.shipOf x).bind s.ship).map (·.id)

/-- LOT_QUERY (R38). -/
def execLotQuery (tag : BitVec 16) (id : Text) (s : State) : Host.Outcome State Fault Refusal :=
  .next (takeRequest tag .lotQuery (onLot id fun x l t => accept (.lot l (t.shipIdOf x)) t) s)

/-- LOT-DELETE on a lot in the table (R39). R72 names no removal of an entry here, and in a table that no composed context record has
reached a deleted lot has none; an entry that it has all the same stays for its slot, which is the model's choice (DESIGN CHOICE,
assumption 48). -/
def deleteLot (x : LotSlot) (l : Lot) : Owner := fun s =>
  if l.state.ended then accept .none ((lotRemoved x s).setLot x none) else refuse .wrongState s

/-- LOT_DELETE (R39). -/
def execLotDelete (tag : BitVec 16) (id : Text) (s : State) : Host.Outcome State Fault Refusal :=
  .next (takeRequest tag .lotDelete (onLot id deleteLot) s)

/-! ### Export and import (R40, R41) -/

/-- The lot context record of a lot (R40). -/
def contextOf (s : State) (x : LotSlot) (l : Lot) : LotContext where
  id := l.id
  product := l.product.val
  productCode := s.productCode l.product
  routePrograms := match s.product l.product with | some p => p.steps.map (·.program) | none => []
  priority := l.priority
  startQty := l.startQty
  split := l.split
  stepIndex := l.stepIndex
  route := l.route
  retest := l.retest
  state := l.state
  holds := l.holds
  baselineEligible := l.baselineEligible
  small := l.small
  stepReady := l.stepReady
  regTime := l.regTime
  portions := l.portions
  summaries := s.summaryList x
  tally := s.tally x
  checkMark := s.checkMark x

/-- A lot may be exported: its state is one of the four named, no portion is placed, it is in no shipment (R40). -/
def exportable (s : State) (x : LotSlot) (l : Lot) : Bool :=
  (l.state == .waiting || l.state == .parked || l.state == .qaWait || l.state == .complete)
    && !(l.portions.any Portion.placed) && (s.shipOf x).isNone

/-- LOT-EXPORT on a lot in the table (R40). -/
def exportLot (x : LotSlot) (l : Lot) : Owner := fun s =>
  if exportable s x l then
    accept (.context (contextOf s x l)) (dropLive l.product ((lotRemoved x (removeEntry x s)).setLot x none))
  else refuse .wrongState s

/-- LOT_EXPORT (R40). -/
def execLotExport (tag : BitVec 16) (id : Text) (s : State) : Host.Outcome State Fault Refusal :=
  .next (takeRequest tag .lotExport (onLot id exportLot) s)

/-- The lot a context record recreates, in the product slot its product code names; its state is that of R20 over the recorded fields
(R41; assumption 19). -/
def importedLot (c : LotContext) (i : ProductIx) (regNo : Nat) : Lot :=
  let l : Lot :=
    { id := c.id, product := i, priority := c.priority, startQty := c.startQty, split := c.split, stepIndex := c.stepIndex,
      route := c.route, retest := c.retest, state := .waiting, holds := c.holds, baselineEligible := c.baselineEligible,
      small := c.small, stepReady := c.stepReady, regTime := c.regTime, regNo := regNo, portions := c.kept }
  { l with state := l.derived false }

/-- A context record does not fit its product, or has nothing left to do at its step (R41, item 4). -/
def importBarred (c : LotContext) (p : Product) : Bool :=
  p.steps.map (·.program) ≠ c.routePrograms
    || (c.route == .stepOpen && (c.kept.filter fun x => passOf x.number = (if c.retest then .retest else .first)).all
      fun x => x.state == .done)
    || (c.route == .stepHeld && c.holds.isEmpty)

/-- The records of an imported lot are restored, its flags reviewed and its entry made (R41, R140). -/
def restoreLot (rnd : Round) (x : LotSlot) (c : LotContext) (i : ProductIx) (s : State) : State :=
  let s1 := enterLot x (importedLot c i s.regCounter) s
  let s2 := setCheckMark x c.checkMark (c.summaries.foldl (fun s u => setSummary x u s) s1)
  let s3 :=
    if c.route.atStep then
      match (s2.product i).bind fun p => p.step c.stepIndex with
      | none => modTally x (fun _ => trimImported [] c.tally) s2
      | some st => reviewImport rnd x c.holds st.limits (modTally x (fun _ => trimImported st.limits.entries c.tally) s2)
    else s2
  let s4 := if (match s3.lot x with | some l => l.queuedPortions.isEmpty | none => true) then s3 else entryNeeded rnd x s3
  refreshLot x s4

/-- LOT-IMPORT of a context record whose every enumeration byte holds a listed value (R41). -/
def importContext (c : LotContext) : Owner := fun s =>
  if !validContext c then refuse .badField s
  else if (s.findLot c.id).isSome then refuse .duplicate s
  else
    match s.findProduct c.productCode with
    | none => refuse .notFound s
    | some i =>
      match s.product i with
      | none => refuse .notFound s
      | some p =>
        if importBarred c p then refuse .wrongState s
        else
          match s.freeLot with
          | none => refuse .tableFull s
          | some x =>
            let s1 := restoreLot offerRound x c i s
            accept (.imported x (match s1.lot x with | some l => l.state | none => .waiting)) s1

/-- LOT-IMPORT (R41): a record whose text fields hold an unused bit is refused first (R174), and the others are read as R186 says. -/
def lotImport (context : Option LotContext) : Owner := fun s =>
  match context with
  | none => refuse .badField s
  | some c => if c.padded then refuse .badField s else importContext c.read s

/-- LOT_IMPORT (R41). -/
def execLotImport (tag : BitVec 16) (context : Option LotContext) (s : State) : Host.Outcome State Fault Refusal :=
  .next (takeRequest tag .lotImport (lotImport context) s)

end Sys2Proof.Machine
end

