-- ==== Sys2Proof/Machine/Dispose.lean ====
section
/-! DEFINITION. LOT-DISPOSE (R31): the pairs allowed and their conditions, RELEASE and RELEASE-EXCLUDE (R32), RETEST (R33), the dispositions
of a QA hold (R34), SCRAP (R35), and the last hold gone (R30). -/

namespace Sys2Proof.Machine

open Sys2Proof

/-! ### Which pairs are allowed (R31) -/

/-- What R31's table says of a pair. -/
inductive Allowed where
  | yes | no | conditionA | conditionB
  deriving DecidableEq, Repr

/-- R31's table. -/
def allowed (r : HoldReason) (d : Disposition) : Allowed :=
  match r, d with
  | _, .scrap => .yes
  | .yield, .release | .yield, .releaseExclude => .yes
  | .yield, .retest => .conditionA
  | .binlimit, .release | .binlimit, .releaseExclude => .yes
  | .binlimit, .retest => .conditionA
  | .check, .release | .check, .releaseExclude => .yes
  | .check, .retest => .no
  | .count, .release => .yes
  | .count, .releaseExclude | .count, .retest => .no
  | .program, .release => .conditionB
  | .program, .releaseExclude | .program, .retest => .no
  | .engineering, .release | .engineering, .releaseExclude => .yes
  | .engineering, .retest => .no
  | .qa, .release => .no
  | .qa, .releaseExclude | .qa, .retest => .yes

/-- The retest quantity: the summary's first-pass counts over the step's retest bin set (R31, R33), 0 without a summary
(assumption 41). The sum over an imported summary may pass 65,535; it is then the quantity of the retest as it stands
(assumption 43). -/
def retestQuantity (s : State) (x : LotSlot) (l : Lot) : Nat :=
  match s.stepOf l, s.summary x l.stepIndex with
  | some st, some u => sumOver u.firstCounts st.retestBins
  | _, _ => 0

/-- Condition A (R31). -/
def meetsA (s : State) (x : LotSlot) (l : Lot) (h : Hold) : Bool :=
  l.route == .stepHeld && h.step == l.stepIndex && !l.retest
    && (match s.stepOf l with | some st => st.retestBins ≠ 0 | none => false)
    && 1 ≤ retestQuantity s x l

/-- Condition B (R31). -/
def meetsB (s : State) (l : Lot) (h : Hold) : Bool :=
  (match (s.product l.product).bind fun p => p.step h.step with
    | some st => s.approved st.program st.revision
    | none => false)
  && l.portions.all fun p =>
      !p.atCell ||
        match s.stepOf l, p.revision with
        | some st, some r => s.approved st.program r
        | _, _ => false

/-- The condition of a pair holds (R31, item 3). -/
def Allowed.holds (a : Allowed) (s : State) (x : LotSlot) (l : Lot) (h : Hold) : Bool :=
  match a with
  | .yes => true
  | .no => false
  | .conditionA => meetsA s x l h
  | .conditionB => meetsB s l h

/-! ### The last hold gone (R30) -/

/-- The last record has left the list: the lot's cells lose HOLD, a STEP-HELD lot proceeds, a lot with an entry gets a round
(R30). -/
def lastHoldGone (rnd : Round) (x : LotSlot) (s : State) : State :=
  match s.lot x with
  | none => s
  | some l =>
    let s1 := l.atCells.foldl (fun s a => holdRemoved rnd a.1 ⟨x, a.2⟩ s) s
    let s2 :=
      match s1.lot x with
      | some l1 => if l1.route = .stepHeld then proceed rnd x s1 else s1
      | none => s1
    let s3 := if s2.hasEntry x then rnd s2 else s2
    refreshLot x s3

/-! ### RELEASE, RELEASE-EXCLUDE and RETEST (R32 to R34) -/

/-- The lot teaches no baseline (R146). -/
def exclude (x : LotSlot) (s : State) : State := modLot x (fun l => { l with baselineEligible := false }) s

/-- The waive event of a released YIELD or BINLIMIT record, discarded when the lot has moved on from its step (R32, R137). -/
def waiveRecord (x : LotSlot) (l : Lot) (h : Hold) (s : State) : State :=
  if l.route.atStep && h.step = l.stepIndex then
    match h.reason with
    | .yield => waiveChecks x [.yield] s
    | .binlimit =>
      match s.stepOf l with
      | some st => waiveChecks x (waivedBins (s.tally x) st.limits) s
      | none => s
    | .check | .count | .program | .engineering | .qa => s
  else s

/-- RETEST of a YIELD or BINLIMIT record (R33). -/
def orderRetest (rnd : Round) (x : LotSlot) (l : Lot) (h : Hold) (s : State) : State :=
  let s1 := modTally x (clearRetestFlags h.reason) (exclude x s)
  queuePass rnd x .retest (retestQuantity s x l) (modLot x (fun l => { l with route := .stepOpen }) s1)

/-- What a disposition other than SCRAP does beside the removal of the record (R32, R33, R34). -/
def disposeRecord (rnd : Round) (x : LotSlot) (l : Lot) (h : Hold) (d : Disposition) (s : State) : State :=
  match d with
  | .release => waiveRecord x l h s
  | .releaseExclude =>
    if h.reason = .qa then modLot x (fun l => { l with route := .routeEnd }) (exclude x s)
    else exclude x (waiveRecord x l h s)
  | .retest =>
    if h.reason = .qa then modLot x (fun l => { l with route := .qaSample }) s
    else orderRetest rnd x l h s
  | .scrap => s

/-- A taken disposition other than SCRAP: the record leaves the list, HOLD-CLEARED is sent, the disposition acts, and an
empty list has the effects of R30 (R31). -/
def disposeHold (rnd : Round) (x : LotSlot) (l : Lot) (h : Hold) (d : Disposition) (s : State) : State :=
  let rest := l.holds.filter fun g => g.reason ≠ h.reason
  let s1 := lotChanged x (raise (.holdCleared l.id h.reason d) (s.setLot x (some { l with holds := rest })))
  let s2 := disposeRecord rnd x { l with holds := rest } h d s1
  if rest.isEmpty then lastHoldGone rnd x s2 else refreshLot x s2

/-! ### SCRAP (R35) -/

/-- The lot's state as SCRAP decides it, once its aborts are handed: SCRAPPING while a portion is at a cell, else SCRAPPED
(R35). -/
def decideScrap (x : LotSlot) (old : LotState) (s : State) : State :=
  match s.lot x with
  | none => s
  | some l =>
    let st : LotState := if l.portions.any Portion.atCell then .scrapping else .scrapped
    let s1 := s.setLot x (some { l with state := st })
    let s2 := if old = st then s1 else lotChanged x (raise (.lotState l.id old st) s1)
    if st = .scrapped then dropLive l.product s2 else s2

/-- SCRAP (R35): holds dropped with their reports, entry and membership gone, units not at a cell lost, cells aborted, and the
lot's state decided. The lot counts as SCRAPPING while its aborts are handed. -/
def scrapLot (rnd : Round) (x : LotSlot) (l : Lot) (s : State) : State :=
  let s1 := l.holds.foldl (fun s h => raise (.holdCleared l.id h.reason .scrap) s) (s.setLot x (some { l with holds := [] }))
  let s2 := memberRemoved x (removeEntry x s1)
  let s3 := l.pendingCells.foldl (fun s c => emptyPending c s) s2
  let s4 := modLot x (fun l =>
    { l with
      state := .scrapping
      portions := l.portions.map fun p => if p.state = .queued then scrapPortion s.floorTime p else p }) s3
  let s5 := l.pendingCells.foldl (fun s c => updateWaiting rnd c s) s4
  let s6 := l.atCells.foldl (fun s a => abortEvent rnd a.1 ⟨x, a.2⟩ s) s5
  decideScrap x l.state s6

/-! ### The request -/

/-- The state of the lot in a slot after a request; the one given for a slot that is free. -/
def stateAfter (s : State) (x : LotSlot) (d : LotState) : LotState := match s.lot x with | some l => l.state | none => d

/-- LOT-DISPOSE on a lot in the table (R31). -/
def disposeLot (r : HoldReason) (d : Disposition) (x : LotSlot) (l : Lot) : Owner := fun s =>
  match l.holds.find? fun h => h.reason = r with
  | none => refuse .notFound s
  | some h =>
    if (allowed r d).holds s x l h then
      let s1 := if d = .scrap then scrapLot offerRound x l s else disposeHold offerRound x l h d s
      accept (.lotState (stateAfter s1 x l.state)) s1
    else refuse .wrongState s

/-- LOT-DISPOSE (R31): the values and the pair are checked first. -/
def lotDispose (id : Text) (reason : Option HoldReason) (disposition : Option Disposition) : Owner := fun s =>
  match reason, disposition with
  | some r, some d => if allowed r d = .no then refuse .badField s else onLot id (disposeLot r d) s
  | _, _ => refuse .badField s

/-- LOT_DISPOSE (R31). -/
def execLotDispose (tag : BitVec 16) (id : Text) (reason : Option HoldReason) (disposition : Option Disposition) (s : State) :
    Host.Outcome State Fault Refusal :=
  .next (takeRequest tag .lotDispose (lotDispose id reason disposition) s)

end Sys2Proof.Machine
end

