-- ==== Sys2Proof/Machine/FloorReset.lean ====
section
/-! DEFINITION. FLOOR-RESET (R69, R183) and cold reset (R184, R190). -/

namespace Sys2Proof.Machine

open Sys2Proof

/-! ### FLOOR-RESET -/

/-- A cell record at its FLOOR-RESET values, but for its state and purge timer (R69). -/
def Cell.floorReset (x : Cell) : Cell :=
  { x.stopTimers with
    program := none
    consec := Vector.replicate 8 0
    pause := PauseSet.empty
    cleared := if x.online then false else x.cleared
    current := none
    pendingSlot := none
    runStarted := false
    downAfterPurge := false
    runTested := 0
    loadFailures := 0
    fault := if x.state = .down then x.fault else .none }

/-- One cell at FLOOR-RESET: its load fails with ABORTED, its record takes its values, and an online cell is sent ABORT and
PURGE (R69, R183, step 1). -/
def resetCell (s : State) (c : CellId) : State :=
  let s1 := modCell c Cell.floorReset (abortLoad c s)
  if (s.cell c).online then startPurge c (sendAbort c s1) else s1

/-- Step 1 of FLOOR-RESET: cells, loads, ports and the counts of the Tally and Limit Unit; the pool is left free, its set
empty and its pointer at 15 (R90, R126). -/
def resetCells (s : State) : State :=
  let s1 := (List.finRange 16).foldl resetCell s
  { s1 with
    bufferWaiting := Vector.replicate 16 false, grantPointer := 15, buffers := Vector.replicate 8 .free, runGroups := Vector.replicate 16 0 }

/-- Step 2: the lot table, and what the other units hold for its lots (R19, R143, R170). -/
def resetLots (s : State) : State :=
  { s with
    products := s.products.map fun p => p.map fun p => { p with live := 0 }
    lots := Vector.replicate 128 none
    tallies := Vector.replicate 128 LotStepRec.empty
    summaries := Vector.replicate 128 (Vector.replicate 4 none)
    checkMarks := Vector.replicate 128 false }

/-- Step 3: the Dispatcher (R86). -/
def resetDispatcher (s : State) : State := { s with waitList := [], waiting := Vector.replicate 16 false, pointer := 0 }

/-- Step 4: the Release Unit (R170). -/
def resetRelease (s : State) : State := { s with ships := Vector.replicate 8 none, tickets := [] }

/-- FLOOR-RESET (R183): the reply counts the cells sent to PURGING. -/
def floorReset : Owner := fun s =>
  accept (.floorReset (countOf Cell.online s.cells.toList)) (resetRelease (resetDispatcher (resetLots (resetCells s))))

/-- FLOOR_RESET (R183). -/
def execFloorReset (tag : BitVec 16) (s : State) : Host.Outcome State Fault Refusal :=
  .next (takeRequest tag .floorReset floorReset s)

/-! ### Cold reset -/

/-- The host line speed that the straps give (R171). -/
def strapSpeed (strap1 strap0 : Bool) : Nat :=
  match strap1, strap0 with
  | false, false => 115200
  | false, true => 460800
  | true, false => 921600
  | true, true => 2000000

/-- The part after a cold reset with the straps as they stand at its end (R171, R184). The commands still to come, and the
model's own counter of free values, are not the part's state and stay. -/
def coldReset (strap1 strap0 : Bool) (s : State) : State :=
  { State.reset with pending := s.pending, host := HostLink.reset (strapSpeed strap1 strap0), freeTick := s.freeTick }

/-- COLD_RESET (R184, R190): power-on, and a low pulse of 10 µs or more, reset the part; a pulse below 1 µs is ignored; one
between may do either, which is a free value (assumption 4). -/
def execColdReset (cause : ResetCause) (strap1 strap0 : Bool) (s : State) : Host.Outcome State Fault Refusal :=
  .next (
    match cause with
    | .powerOn => coldReset strap1 strap0 s
    | .resetPin ns =>
      if 10000 ≤ ns then coldReset strap1 strap0 s
      else if ns < 1000 then s
      else
        let s1 := { s with freeTick := s.freeTick + 1 }
        if Config.shortPulseResets s.freeTick then coldReset strap1 strap0 s1 else s1)

end Sys2Proof.Machine
end

