-- ==== Sys2Proof/Machine/Flags.lean ====
section
/-! DEFINITION. The six sticky link flags of a port (R116). -/

namespace Sys2Proof.Machine

open Sys2Proof

/-- The flag a LINK-ERROR cause latches, set. -/
def latchOf (cause : LinkErrorCause) (f : LinkFlags) : LinkFlags :=
  match cause with
  | .seqGap _ => { f with seqGap := true }
  | .siteBad _ => { f with siteBad := true }
  | .dupSite _ => { f with dupSite := true }
  | .overrun _ => { f with overrun := true }
  | .setupLate _ => { f with setupLate := true }
  | .stray _ => { f with stray := true }
  | .wrongStation | .malformed _ | .txOverrun _ | .break | .silence => f

/-- A flag latches; only one that goes from clear to set sends its LINK-ERROR report (R116). -/
def latch (c : CellId) (cause : LinkErrorCause) (s : State) : State :=
  if latchOf cause (s.port c).flags = (s.port c).flags then s
  else raise (.linkError c cause) (modPort c (fun p => { p with flags := latchOf cause p.flags }) s)

/-- The flag a record's status latches when the record is taken; MALFORMED and OK latch none (R116). -/
def latchStatus (c : CellId) (r : IntakeRecord) (s : State) : State :=
  match r.status with
  | .siteBad => latch c (.siteBad r.site) s
  | .dupSite => latch c (.dupSite r.site) s
  | .setupLate => latch c (.setupLate r.touchdown) s
  | .stray => latch c (.stray r.touchdown) s
  | .malformed | .ok => s

end Sys2Proof.Machine
end

