-- ==== Sys2Proof/Machine/Ports.lean ====
section
/-! DEFINITION. The cell ports: arrival of results (R111, R112), taking of records and judging of groups (R114 to R118), the result check
(R119), the held RUN-END (R120), and tallied groups (R117, R125 to R127). -/

namespace Sys2Proof.Machine

open Sys2Proof

/-! ### Arrival (R108, R111, R112) -/

/-- A SITE-RESULT body is malformed: not 5 bytes, an unused bit set, or a field out of range (R108, R186, R189). -/
def malformedSiteResult (body : List Byte) : Bool :=
  match readSiteResult body with
  | none => true
  | some (_, site, bin, flags) => 7 < site.toNat || !within 1 16 bin.toNat || readFlag flags = .unusedBit

/-- A GROUP-END body is malformed: not 4 bytes, an unused bit set, or a site count outside 1 to 8 (R108, R186, R189). -/
def malformedGroupEnd (body : List Byte) : Bool :=
  match readGroupEnd body with
  | none => true
  | some (_, sites, flags) => !within 1 8 sites.toNat || readFlag flags = .unusedBit

/-- The status a record of a readable body gets at its arrival (R111's table); `dup` is read for a SITE-RESULT alone. -/
def arrivalStatus (x : Cell) (p : Port) (kind : RecordKind) (site : Nat) (setup : Bool) : RecordStatus :=
  if !p.runOpen then .stray
  else if setup && p.productionArrived then .setupLate
  else
    match kind with
    | .groupEnd => .ok
    | .siteResult =>
      if (match x.siteCount with | none => true | some n => n ≤ site) || SiteSet.has x.siteOff site then .siteBad
      else if SiteSet.has p.arrival site then .dupSite
      else .ok

/-- The intake record of a SITE-RESULT body at its arrival (R111). -/
def siteResultRecord (x : Cell) (p : Port) (body : List Byte) : IntakeRecord :=
  match readSiteResult body with
  | some (td, site, bin, flags) =>
    ⟨.siteResult, td, site, bin, flags,
      if malformedSiteResult body then .malformed else arrivalStatus x p .siteResult site.toNat (flags.getLsbD 0), []⟩
  | none => ⟨.siteResult, (readTouchdown body).getD 0, 0, 0, 0, .malformed, []⟩

/-- The intake record of a GROUP-END body at its arrival (R111). -/
def groupEndRecord (x : Cell) (p : Port) (body : List Byte) : IntakeRecord :=
  match readGroupEnd body with
  | some (td, sites, flags) =>
    ⟨.groupEnd, td, sites, 0, flags,
      if malformedGroupEnd body then .malformed else arrivalStatus x p .groupEnd 0 (flags.getLsbD 0), []⟩
  | none => ⟨.groupEnd, (readTouchdown body).getD 0, 0, 0, 0, .malformed, []⟩

/-- The arrival tracking a queued record leaves: a SITE-RESULT of status OK, SITE-BAD or SETUP-LATE adds its site, a GROUP-END
empties the arrival group, and a production one that is not MALFORMED marks production arrived while the run is open (R111,
R112). -/
def trackArrival (r : IntakeRecord) (p : Port) : Port :=
  match r.kind with
  | .siteResult =>
    match r.status with
    | .ok | .siteBad | .setupLate => { p with arrival := SiteSet.add p.arrival r.site.toNat }
    | .malformed | .stray | .dupSite => p
  | .groupEnd =>
    { p with
      productionArrived := p.productionArrived || (p.runOpen && r.status ≠ .malformed && !r.flags.getLsbD 0)
      arrival := 0 }

/-- The touchdown number an OVERRUN report carries: that of the dropped record, a free value where its body is too short to
hold one (R116; assumption 3). -/
def overrunTouchdown (s : State) (body : List Byte) : BitVec 16 :=
  match readTouchdown body with
  | some td => td
  | none => Config.unreadableTouchdown s.freeTick

/-- A result record arrives: it joins the queue's tail, or at 16 records it is dropped and OVERRUN latches (R111, R116). -/
def arrive (c : CellId) (body : List Byte) (r : IntakeRecord) (s : State) : State :=
  if (s.port c).queue.length < 16 then modPort c (fun p => trackArrival r { p with queue := p.queue ++ [r] }) s
  else latch c (.overrun (overrunTouchdown s body)) { s with freeTick := s.freeTick + 1 }

/-- A mark set on the record at the queue's tail; a mark already there stays (R112, R120). -/
def markTail (m : RecordMark) : List IntakeRecord → List IntakeRecord
  | [] => []
  | [r] => [{ r with marks := if r.marks.contains m then r.marks else r.marks ++ [m] }]
  | r :: rs => r :: markTail m rs

/-- A JAM at the port: the arrival group is emptied, and the group is discarded at once on an empty queue or else at the
tail's mark (R112, R118). -/
def jamPort (p : Port) : Port :=
  let p1 := { p with arrival := 0 }
  if p.queue.isEmpty then p1.dropGroup else { p1 with queue := markTail .jamFollows p.queue }

/-! ### Tallied groups (R117, R125 to R127) -/

/-- One result counted in its pass's tally (R125, item 1). -/
def tallyResult (pass : Pass) (t : LotStepRec) (r : IntakeRecord) : LotStepRec :=
  match pass with
  | .first => { t with first := t.first.raise r.bin.toNat }
  | .retest => { t with retest := t.retest.raise r.bin.toNat }

/-- The counts of a portion after a tallied group of g results (R24). -/
def tallyPortion (g time : Nat) (p : Portion) : Portion :=
  { p with h := p.h - g, t := p.t + g,
           firstProduction := match p.firstProduction with | some t => some t | none => some time }

/-- The consecutive-fail count of a site after a result (R127). -/
def consecAfter (bin n : Nat) : Nat := if bin = 1 then 0 else satInc 255 n

/-- One result's site count: a rise from C − 1 to C hands a site-limit event (R127). -/
def countSite (rnd : Round) (c : CellId) (limit : Nat) (s : State) (r : IntakeRecord) : State :=
  let k := r.site.toNat
  if h : k < 8 then
    let old := (s.cell c).consec.get ⟨k, h⟩
    let new := consecAfter r.bin.toNat old
    let s1 := modCell c (fun x => { x with consec := x.consec.set k new h }) s
    if limit ≠ 0 && new = limit && old < new then siteLimit rnd c k s1 else s1
  else s

/-- The TALLY report of a group, when one falls due (R126). -/
def tallyReport (c : CellId) (x : LotSlot) (portion : Nat) (td : BitVec 16) (s : State) : State :=
  match s.lot x with
  | none => s
  | some l =>
    let n := (s.cell c).tallyInterval
    let g := s.runGroups.get c
    if n ≠ 0 && g % n = 0 then
      let counts := match passOf portion with | .first => (s.tally x).first | .retest => (s.tally x).retest
      raise (.tally c l.id l.stepIndex (passOf portion) portion td g (s.cell c).runTested counts.sum counts) s
    else s

/-- A tallied group (R125): tally, units, run counts, site counts, report, evaluation. -/
def talliedGroup (rnd : Round) (c : CellId) (td : BitVec 16) (rs : List IntakeRecord) (s : State) : State :=
  match s.currentWork c with
  | none => s
  | some (ref, _, p, st) =>
    let g := rs.length
    let s1 := modTally ref.lot (fun t => rs.foldl (tallyResult (passOf p.number)) t) s
    let s2 := modPortion ref (tallyPortion g s.floorTime) s1
    let s3 := setRunGroups c (satInc 65535 (s2.runGroups.get c)) (modCell c (fun x => { x with runTested := x.runTested + g }) s2)
    let s4 := rs.foldl (countSite rnd c st.limits.consecFail) s3
    let s5 := tallyReport c ref.lot p.number td s4
    if passOf p.number = .first then evaluate rnd ref.lot p.number false s5 else s5

/-- The three bytes of a result that the run result check takes in: site, hard bin, flags (R119, R189). -/
def checkedBytes (r : IntakeRecord) : List Byte := [r.site, r.bin, r.flags]

/-- A complete group goes on: a setup group counts a touchdown; a production group within H is checked, counted and tallied; one
above H counts a touchdown and raises a CHECK hold (R117). -/
def completeGroup (rnd : Round) (c : CellId) (setup : Bool) (td : BitVec 16) (rs : List IntakeRecord) (s : State) : State :=
  if setup then touchdown rnd c s
  else
    match s.currentWork c with
    | none => touchdown rnd c s
    | some (ref, _, p, _) =>
      if rs.length ≤ p.h then
        talliedGroup rnd c td rs
          (touchdown rnd c (modPort c (fun p => { p with resultCheck := crc16From p.resultCheck (rs.flatMap checkedBytes) }) s))
      else mergeHold rnd ref.lot .check ref.portion 0 (touchdown rnd c s)

/-! ### Judging and taking (R114, R115) -/

/-- A group closed by a GROUP-END is complete (R115, conditions 1 to 6). -/
def groupComplete (e : IntakeRecord) (rs : List IntakeRecord) (count : Nat) : Bool :=
  e.status == .ok && count == e.site.toNat && count ≤ 8 && rs.length == count
    && (rs.all fun r => r.status == .ok) && (rs.map (·.site)).Nodup
    && (rs.all fun r => r.touchdown == e.touchdown) && (rs.all fun r => r.flags.getLsbD 0 == e.flags.getLsbD 0)

/-- The touchdown number check of a readable GROUP-END: a gap latches SEQ-GAP, and the number becomes the last (R115). -/
def checkSequence (c : CellId) (e : IntakeRecord) (s : State) : State :=
  match e.status with
  | .ok | .setupLate =>
    let s1 :=
      match (s.port c).lastTouchdown with
      | none => s
      | some n => if e.touchdown = n + 1 then s else latch c (.seqGap e.touchdown) s
    modPort c (fun p => { p with lastTouchdown := some e.touchdown }) s1
  | .malformed | .stray | .siteBad | .dupSite => s

/-- A GROUP-END of status other than STRAY closes the group and judges it (R115). -/
def closeGroup (rnd : Round) (c : CellId) (e : IntakeRecord) (s : State) : State :=
  let p := s.port c
  let s1 := modPort c Port.dropGroup (checkSequence c e s)
  if groupComplete e p.group p.groupCount then completeGroup rnd c (e.flags.getLsbD 0) e.touchdown p.group s1
  else if e.isSetup then s1
  else damagedGroup c s1

/-- A SITE-RESULT of status other than STRAY joins the group: the first eight are kept, all are counted (R114). -/
def joinGroup (r : IntakeRecord) (p : Port) : Port :=
  { p with group := if p.group.length < 8 then p.group ++ [r] else p.group, groupCount := p.groupCount + 1 }

/-- A taken record acts by its kind and status (R114). -/
def actOnRecord (rnd : Round) (c : CellId) (r : IntakeRecord) (s : State) : State :=
  if r.status = .stray then s
  else
    match r.kind with
    | .siteResult => modPort c (joinGroup r) s
    | .groupEnd => closeGroup rnd c r s

/-- A mark of a taken record acts: the jam's discard, or the hand-off of the held RUN-END (R114, R118, R120). -/
def actOnMark (rnd : Round) (c : CellId) (s : State) (m : RecordMark) : State :=
  match m with
  | .jamFollows => modPort c Port.dropGroup s
  | .endFollows =>
    match (s.port c).heldRunEnd with
    | some e => runEndHanded rnd c e s
    | none => s

/-- The port takes the head record of its intake queue (R114); an empty queue changes nothing. -/
def takeRecord (rnd : Round) (c : CellId) (s : State) : State :=
  match (s.port c).queue with
  | [] => s
  | r :: rest =>
    let s1 := latchStatus c r (modPort c (fun p => { p with queue := rest }) s)
    r.marks.foldl (actOnMark rnd c) (actOnRecord rnd c r s1)

/-- A RUN-END at the port: discarded unless the run is open; it closes the run, and is handed at once on an empty queue or
else at the tail's mark (R112, R120). -/
def runEndArrives (rnd : Round) (c : CellId) (e : HeldRunEnd) (s : State) : State :=
  if (s.port c).runOpen then
    let s1 := modPort c (fun p =>
      { p with runOpen := false, arrival := 0, heldRunEnd := some e, queue := markTail .endFollows p.queue }) s
    if (s.port c).queue.isEmpty then runEndHanded rnd c e s1 else s1
  else s

end Sys2Proof.Machine
end

