-- ==== Sys2Proof/Machine/Station.lean ====
section
/-! DEFINITION. The station frames (R45, R46, R50, R52, R55, R108 to R113, R120) but for those of the Image Loader. -/

namespace Sys2Proof.Machine

open Sys2Proof

/-- The port's receiver, in step after a proved frame (R107). -/
def proveFrame (c : CellId) (s : State) : State := modPort c (fun p => { p with rx := Receiver.between }) s

/-- The silence timer of a port, restarted at 6 s (R113). -/
def restartSilence (c : CellId) (s : State) : State := modPort c (fun p => { p with silence := some 6 }) s

/-- A proved frame other than HELLO: discarded while the link is DOWN; else the silence timer restarts and the frame acts (R108,
R109, R113). -/
def stationFrame (c : CellId) (act : State → State) (s : State) : State :=
  settleHost (if (s.cell c).linkUp then act (restartSilence c (proveFrame c s)) else proveFrame c s)

/-- A malformed frame that is no result: discarded, with a LINK-ERROR report (R108). -/
def malformedFrame (c : CellId) (k : ControlKind) (s : State) : State := raise (.linkError c (.malformed (controlKindByte k))) s

/-! ### HELLO (R45) -/

/-- A HELLO is malformed: an unused bit is set or a field is out of range (R108, R186). -/
def malformedHello (name : Text) (sites : Nat) (classes : ClassSet) (kit : Text) : Bool :=
  (takeText 16 name).isNone || !validSites sites || classes = 0 || readClassSet classes ≠ .value classes
    || readTrailingText 8 kit ≠ .value kit

/-- The capability and installed kit of a HELLO; the loaded program becomes none and the link UP (R45). -/
def Cell.hello (sites : Nat) (classes : ClassSet) (kit : Text) (x : Cell) : Cell :=
  { x with
    siteCount := some sites, classes := some classes, kit := if kit.isEmpty then none else some kit, program := none, linkUp := true }

/-- An accepted HELLO on an OFFLINE cell: it starts the silence timer and the purge (R45, R113). -/
def acceptHello (c : CellId) (sites : Nat) (classes : ClassSet) (kit : Text) (s : State) : State :=
  startPurge c (restartSilence c (modCell c (Cell.hello sites classes kit) s))

/-- A HELLO that is not malformed reaches the Cell Manager (R45). -/
def helloArrives (rnd : Round) (c : CellId) (name : Text) (sites : Nat) (classes : ClassSet) (kit : Text) (s : State) : State :=
  let x := s.cell c
  if !x.configured || x.stationName ≠ some name then raise (.linkError c .wrongStation) s
  else
    match x.state with
    | .offline => acceptHello c sites classes kit s
    | .down => restartSilence c (modCell c (Cell.hello sites classes kit) s)
    | .purging | .idle | .reserved | .loading | .soaking | .running | .paused | .draining =>
      acceptHello c sites classes kit (linkLoss rnd c s)

/-- A proved HELLO restarts the silence timer of an UP link, whatever becomes of it (R108, R113). -/
def keepAlive (c : CellId) (s : State) : State := if (s.cell c).linkUp then restartSilence c s else s

/-- HELLO (R45): passed on whatever the link status (R109). -/
def execHello (c : CellId) (name : Text) (sites : Nat) (classes : ClassSet) (kit : Text) (s : State) :
    Host.Outcome State Fault Refusal :=
  let s1 := keepAlive c (proveFrame c s)
  .next (settleHost (
    if malformedHello name sites classes kit then malformedFrame c .hello s1
    else helloArrives offerRound c (fieldChars name) sites classes kit s1))

/-! ### KIT (R52) -/

/-- The kit of the step of the cell's current portion. -/
def State.wantedKit (s : State) (c : CellId) : Option Text := (s.currentWork c).map fun w => w.2.2.2.kit

/-- A KIT frame that ends a soak whose run has not started: the timers stop, the cell is RESERVED, CHANGEOVER is sent (R52). -/
def kitLost (c : CellId) (s : State) : State :=
  match s.currentWork c with
  | none => s
  | some (_, l, p, st) =>
    raise (.changeover c l.id p.number st.kit (s.cell c).kit)
      (setCellState c .reserved (modCell c (fun x => { x with soakTimer := none, dwellTimer := none }) s))

/-- A KIT frame sets the installed kit and acts by state (R52). -/
def kitArrives (rnd : Round) (c : CellId) (code : Text) (s : State) : State :=
  let x := s.cell c
  let s1 := modCell c (fun x => { x with kit := some code }) s
  match x.state with
  | .reserved => if s.wantedKit c = some code then setupFromPause rnd c s1 else s1
  | .soaking =>
    if s.wantedKit c = some code then s1 else if x.runStarted then drain rnd c s1 else kitLost c s1
  | .running => if s.wantedKit c = some code then s1 else drain rnd c s1
  | .paused => if s.wantedKit c = some code || !x.runStarted then s1 else drain rnd c s1
  | .idle => if x.kit = some code then s1 else rnd s1
  | .loading | .purging | .draining | .down | .offline => s1

/-- KIT (R52). -/
def execKit (c : CellId) (code : Text) (s : State) : Host.Outcome State Fault Refusal :=
  .next (stationFrame c (fun t =>
    if readTrailingText 8 code = .value code && !code.isEmpty then kitArrives offerRound c code t else malformedFrame c .kit t) s)

/-! ### PURGED, SOAK-REACHED, STATUS -/

/-- PURGED (R46): discarded in any state but PURGING. -/
def execPurged (c : CellId) (count : BitVec 16) (s : State) : Host.Outcome State Fault Refusal :=
  .next (stationFrame c
    (fun t => if (t.cell c).state = .purging then purgeDone offerRound c count.toNat t else t) s)

/-- SOAK-REACHED with the soak timer running: the dwell begins, and a dwell of 0 ends at once (R50). -/
def soakReached (rnd : Round) (c : CellId) (s : State) : State :=
  if (s.cell c).state = .soaking && (s.cell c).soakTimer.isSome then
    match s.currentWork c with
    | none => s
    | some (_, _, _, st) =>
      let s1 := modCell c (fun x => { x with soakTimer := none, dwellTimer := some st.dwell }) s
      if st.dwell = 0 then dwellEnds rnd c s1 else s1
  else s

/-- SOAK_REACHED (R50). -/
def execSoakReached (c : CellId) (s : State) : Host.Outcome State Fault Refusal :=
  .next (stationFrame c (soakReached offerRound c) s)

/-- STATUS (R109): the silence timer restarts. -/
def execStatus (c : CellId) (s : State) : Host.Outcome State Fault Refusal := .next (stationFrame c id s)

/-! ### Results (R111) -/

/-- SITE_RESULT (R111). -/
def execSiteResult (c : CellId) (body : List Byte) (s : State) : Host.Outcome State Fault Refusal :=
  .next (stationFrame c (fun t => arrive c body (siteResultRecord (t.cell c) (t.port c) body) t) s)

/-- GROUP_END (R111). -/
def execGroupEnd (c : CellId) (body : List Byte) (s : State) : Host.Outcome State Fault Refusal :=
  .next (stationFrame c (fun t => arrive c body (groupEndRecord (t.cell c) (t.port c) body) t) s)

/-! ### JAM, JAM-CLEAR, RUN-END (R55, R120) -/

/-- JAM (R55, R112). -/
def execJam (c : CellId) (s : State) : Host.Outcome State Fault Refusal :=
  .next (stationFrame c (fun t => addPause c .jam (modPort c jamPort t)) s)

/-- JAM_CLEAR (R55). -/
def execJamClear (c : CellId) (s : State) : Host.Outcome State Fault Refusal :=
  .next (stationFrame c (removePause offerRound c .jam) s)

/-- RUN_END (R112, R120). -/
def execRunEnd (c : CellId) (tested check : BitVec 16) (s : State) : Host.Outcome State Fault Refusal :=
  .next (stationFrame c (runEndArrives offerRound c ⟨tested, check⟩) s)

/-! ### Malformed frames (R108) -/

/-- MALFORMED: a proved frame of another kind that is malformed; while the link is DOWN only a HELLO counts (R108). -/
def execMalformed (c : CellId) (kind : ControlKind) (s : State) : Host.Outcome State Fault Refusal :=
  let s1 := keepAlive c (proveFrame c s)
  .next (settleHost (if (s.cell c).linkUp || kind = .hello then malformedFrame c kind s1 else s1))

end Sys2Proof.Machine
end

