-- ==== Sys2Proof/Machine/LoadEvents.lean ====
section
/-! DEFINITION. The commands of the Image Loader: LOAD-DATA (R93, R94), the station's answers (R95, R96, R100) and the three kinds of timer
(R96 to R98). -/

namespace Sys2Proof.Machine

open Sys2Proof

/-- LOAD-DATA (R93, R94). -/
def loadData (n offset : Nat) (data : List Byte) : Owner := fun s =>
  match cellOf n with
  | none => refuse .badField s
  | some c =>
    if data.isEmpty || 256 < data.length then refuse .badField s
    else
      match (s.load c).wants with
      | [] => refuse .wrongState s
      | w :: _ =>
        if offset ≠ w then (s, ⟨.refused .offset, .expectedOffset w⟩)
        else if data.length ≠ (s.load c).blockLength offset then refuse .badField s
        else
          let s1 := relayBlock c offset data s
          accept (.loadTaken offset (s1.load c).relayed (s1.load c).wants.head?) s1

/-- LOAD_DATA (R93): the fields are read from the body; one of another length than 5 to 260 bytes is refused BAD_FIELD by the Host Link
Unit (R174, R189). A body too short for cell and offset is an UNKNOWN_KIND command of a bad form. -/
def execLoadData (tag : BitVec 16) (cell : Byte) (offset : BitVec 24) (data : List Byte) (s : State) : Host.Outcome State Fault Refusal :=
  .next (takeRequest tag .loadData (match readLoadData (cell :: (be24 offset ++ data)) with
    | some (cell, offset, data) => loadData cell offset data
    | none => refuse .badField) s)

/-- BLOCK_ACK (R95). -/
def execBlockAck (c : CellId) (offset : BitVec 24) (s : State) : Host.Outcome State Fault Refusal :=
  .next (stationFrame c (ackBlock c offset.toNat) s)

/-- BLOCK_NAK (R96): a block in flight of a RELAYING load fails it with TRANSFER. -/
def execBlockNak (c : CellId) (offset : BitVec 24) (s : State) : Host.Outcome State Fault Refusal :=
  .next (stationFrame c (fun t =>
    if (t.load c).state = .relaying && (t.load c).inFlight.contains offset.toNat then endLoad offerRound c .transfer t else t) s)

/-- An IMAGE-CHECK in VERIFYING: stored, the timer stopped, the three values compared (R100). -/
def checkImage (rnd : Round) (c : CellId) (check : BitVec 32) (s : State) : State :=
  if (s.load c).state = .verifying then
    let s1 := modLoad c (fun d => { d with stationCheck := some check, checkTimer := false }) s
    match compareChecks (s1.load c) check with
    | some e => endLoad rnd c e s1
    | none =>
      let s2 := modLoad c (fun d => { d with state := .done }) s1
      loadGood rnd c (raise (loadDoneReport c (s2.load c)) s2)
  else s

/-- IMAGE_CHECK (R100). -/
def execImageCheck (c : CellId) (check : BitVec 32) (s : State) : Host.Outcome State Fault Refusal :=
  .next (stationFrame c (checkImage offerRound c check) s)

/-- DATA_TIMEOUT: the data timer of an outstanding want expires and the load fails with TIMEOUT (R97). -/
def execDataTimeout (c : CellId) (offset : Nat) (s : State) : Host.Outcome State Fault Refusal :=
  .next (settleHost (if (s.load c).wants.contains offset then endLoad offerRound c .timeout s else s))

/-- ACK_TIMEOUT: the acknowledge timer of a block in flight expires and the load fails with TRANSFER (R96). -/
def execAckTimeout (c : CellId) (offset : Nat) (s : State) : Host.Outcome State Fault Refusal :=
  .next (settleHost (if (s.load c).inFlight.contains offset then endLoad offerRound c .transfer s else s))

/-- CHECK_TIMEOUT: the check timer expires in VERIFYING and the load fails with TRANSFER (R98). -/
def execCheckTimeout (c : CellId) (s : State) : Host.Outcome State Fault Refusal :=
  .next (settleHost (
    if (s.load c).state = .verifying && (s.load c).checkTimer then endLoad offerRound c .transfer s else s))

end Sys2Proof.Machine
end

