-- ==== Sys2Proof/Machine/PortEvents.lean ====
section
/-! DEFINITION. The events of a cell line and of a cell's timers (R46, R50, R107, R110, R113, R114). -/

namespace Sys2Proof.Machine

open Sys2Proof

/-- CELL_CANDIDATE_FAIL: bytes arrive at the port's receiver (R107; assumption 21). -/
def execCellCandidateFail (c : CellId) (bytes : List Byte) (s : State) : Host.Outcome State Fault Refusal :=
  .next (settleHost (modPort c (fun p => { p with rx := (receiveCell p.rx bytes).1 }) s))

/-- BREAK: the candidate is abandoned and the receiver hunts; on an UP link a link loss and a LINK-ERROR report follow
(R113). -/
def execLineBreak (c : CellId) (s : State) : Host.Outcome State Fault Refusal :=
  let s1 := modPort c (fun p => { p with rx := Receiver.hunting }) s
  .next (settleHost (if (s.cell c).linkUp then raise (.linkError c .break) (linkLoss offerRound c s1) else s1))

/-- SILENCE: the silence timer, where it runs, expires: a link loss and a LINK-ERROR report (R113). -/
def execSilence (c : CellId) (s : State) : Host.Outcome State Fault Refusal :=
  .next (settleHost (
    if (s.cell c).linkUp && (s.port c).silence.isSome then raise (.linkError c .silence) (linkLoss offerRound c s) else s))

/-- The end of the frame under way on a cell line: the next of the transmit list goes out (R110). -/
def Port.frameSent (p : Port) : Port :=
  if p.tx.isNone then p else { p with tx := p.txList.head?, txList := p.txList.tail }

/-- CELL_FRAME_SENT (R110). -/
def execCellFrameSent (c : CellId) (s : State) : Host.Outcome State Fault Refusal := .next (settleHost (modPort c Port.frameSent s))

/-- INTAKE_RECORD_TAKEN (R114). -/
def execIntakeRecordTaken (c : CellId) (s : State) : Host.Outcome State Fault Refusal :=
  .next (settleHost (takeRecord offerRound c s))

/-- PURGE_TIMEOUT: the purge timer expires in PURGING (R46). -/
def execPurgeTimeout (c : CellId) (s : State) : Host.Outcome State Fault Refusal :=
  .next (settleHost (
    if (s.cell c).state = .purging && (s.cell c).purgeTimer.isSome then purgeExpires offerRound c s else s))

/-- SOAK_TIMEOUT: the soak timer expires in SOAKING (R50). -/
def execSoakTimeout (c : CellId) (s : State) : Host.Outcome State Fault Refusal :=
  .next (settleHost (
    if (s.cell c).state = .soaking && (s.cell c).soakTimer.isSome then soakExpires offerRound c s else s))

/-- DWELL_EXPIRY: the dwell timer expires in SOAKING (R50). -/
def execDwellExpiry (c : CellId) (s : State) : Host.Outcome State Fault Refusal :=
  .next (settleHost (
    if (s.cell c).state = .soaking && (s.cell c).dwellTimer.isSome then dwellEnds offerRound c s else s))

end Sys2Proof.Machine
end

