-- ==== Sys2Proof/Machine/Products.lean ====
section
/-! DEFINITION. The product requests of the Floor Records Store (R4 to R11). -/

namespace Sys2Proof.Machine

open Sys2Proof

/-- The record as a reply carries it. -/
def Product.view (p : Product) : ProductView := ⟨p.code, p.steps, p.qaSample⟩

/-- A product's record monitors a bin at a step (R6). -/
def Product.monitors (p : Product) (step bin : Nat) : Bool :=
  match p.step step with
  | none => false
  | some st => st.limits.entries.any fun e => e.bin = bin

/-- The step and bin pairs of a slot's baselines (R144). -/
def baselinePairs : List (Nat × Nat) :=
  (List.range 4).flatMap fun k => (List.range 15).map fun b => (k + 1, b + 2)

/-- The resets of a replacement: every pair that one record monitors and the other does not (R6, R145). -/
def resetChanged (i : ProductIx) (old new : Product) (s : State) : State :=
  baselinePairs.foldl (fun s kb =>
    if old.monitors kb.1 kb.2 = new.monitors kb.1 kb.2 then s else setBaseline i kb.1 kb.2 Baseline.zero s) s

/-- PRODUCT-DEFINE (R4, R5, R6). A replacement leaves no lot of the product, of which only CLOSED, SCRAPPED and NO-YIELD ones can be
there, a flag of a bin its step no longer monitors (R123). -/
def productDefine (req : ProductReq) : Owner := fun s =>
  match takeProduct req with
  | none => refuse .badField s
  | some p =>
    match s.findProduct p.code with
    | some i =>
      match s.product i with
      | none => refuse .badField s
      | some old =>
        if 0 < old.live then refuse .inUse s
        else accept (.product i p.view) (s.setProduct i (some p) |> resetChanged i old p |> trimFlags i)
    | none =>
      match s.freeProduct with
      | none => refuse .tableFull s
      | some i => accept (.product i p.view) (s.setProduct i (some p) |> resetBaselines i)

/-- PRODUCT_DEFINE (R4). -/
def execProductDefine (tag : BitVec 16) (req : ProductReq) (s : State) : Host.Outcome State Fault Refusal :=
  .next (takeRequest tag .productDefine (productDefine req) s)

/-- A lot of the product is in the lot table, in any state (R7). -/
def State.hasLotOf (s : State) (i : ProductIx) : Bool := s.lotList.any fun x => x.2.product = i

/-- A shipment of the product is in the shipment table (R7). -/
def State.hasShipOf (s : State) (i : ProductIx) : Bool :=
  s.ships.toList.any fun h => match h with | some h => h.product = i | none => false

/-- PRODUCT-DELETE (R7). -/
def productDelete (code : Text) : Owner := fun s =>
  match s.findProduct code with
  | none => refuse .notFound s
  | some i =>
    if (match s.product i with | some p => 0 < p.live | none => false) || s.hasLotOf i || s.hasShipOf i then refuse .inUse s
    else accept .none (s.setProduct i none |> resetBaselines i)

/-- PRODUCT_DELETE (R7). -/
def execProductDelete (tag : BitVec 16) (code : Text) (s : State) : Host.Outcome State Fault Refusal :=
  .next (takeRequest tag .productDelete (withText code productDelete) s)

/-- PRODUCT-QUERY (R8). -/
def productQuery (code : Text) : Owner := fun s =>
  match s.findProduct code with
  | none => refuse .notFound s
  | some i =>
    match s.product i with
    | none => refuse .notFound s
    | some p => accept (.productState i (0 < p.live) p.live p.view) s

/-- PRODUCT_QUERY (R8). -/
def execProductQuery (tag : BitVec 16) (code : Text) (s : State) : Host.Outcome State Fault Refusal :=
  .next (takeRequest tag .productQuery (withText code productQuery) s)

/-- A product with the step record at a step index changed. -/
def Product.modStep (k : Nat) (f : StepRec → StepRec) (p : Product) : Product :=
  { p with steps := p.steps.modify (k - 1) f }

/-- A limit set with the mask of a check stored (R9). -/
def LimitSet.setMask (k : CheckSel) (m : Mask) (l : LimitSet) : LimitSet :=
  match k with
  | .yield => { l with yieldMask := m }
  | .bin b => { l with entries := l.entries.map fun e => if e.bin = b then { e with mask := m } else e }

/-- The check a LIMIT-MASK names is the yield check, or a bin from 2 to 16 (R9). -/
def CheckSel.valid : CheckSel → Bool
  | .yield => true
  | .bin b => within 2 16 b

/-- LIMIT-MASK (R9): the mask is stored, and a change from MASKED to UNMASKED hands an unmask event (R139). R9 gives the two reasons
no order; BAD_FIELD is checked before NOT_FOUND (assumption 35). -/
def limitMask (code : Text) (step : Nat) (check : CheckSel) (mask : Option Mask) : Owner := fun s =>
  match mask with
  | none => refuse .badField s
  | some m =>
    if !within 1 4 step || !check.valid then refuse .badField s
    else
      match s.findProduct code with
      | none => refuse .notFound s
      | some i =>
        match ((s.product i).bind fun p => p.step step).bind fun st => st.limits.mask check with
        | none => refuse .notFound s
        | some old =>
          let s1 := modProduct i (Product.modStep step fun st => { st with limits := st.limits.setMask check m }) s
          accept (.mask m) (if old = .masked && m = .unmasked then unmaskEvent offerRound i step check s1 else s1)

/-- LIMIT_MASK (R9). -/
def execLimitMask (tag : BitVec 16) (code : Text) (step : Nat) (check : CheckSel) (mask : Byte) (s : State) :
    Host.Outcome State Fault Refusal :=
  .next (takeRequest tag .limitMask (withText code fun code => limitMask code step check (maskOfByte mask)) s)

/-- A lot of the product is at the step: its step index, and WAITING, ACTIVE or PARKED (R10). -/
def Lot.isAtStep (l : Lot) (i : ProductIx) (step : Nat) : Bool :=
  l.product = i && l.stepIndex = step && (l.state == .waiting || l.state == .active || l.state == .parked)

/-- PRODUCT-REVISE (R10, R11). -/
def productRevise (code : Text) (step revision : Nat) : Owner := fun s =>
  if !within 1 4 step || !validRevision revision then refuse .badField s
  else
    match s.findProduct code with
    | none => refuse .notFound s
    | some i =>
      match (s.product i).bind fun p => p.step step with
      | none => refuse .notFound s
      | some st =>
        if st.revision = revision then accept (.revised st.revision revision) s
        else if s.lotList.any fun x => x.2.isAtStep i step && 4 ≤ x.2.revisionsUsed.length then refuse .inUse s
        else accept (.revised st.revision revision) (modProduct i (Product.modStep step fun st => { st with revision := revision }) s)

/-- PRODUCT_REVISE (R10). -/
def execProductRevise (tag : BitVec 16) (code : Text) (step revision : Nat) (s : State) : Host.Outcome State Fault Refusal :=
  .next (takeRequest tag .productRevise (withText code fun code => productRevise code step revision) s)

end Sys2Proof.Machine
end

