-- ==== Sys2Proof/Machine/Release.lean ====
section
/-! DEFINITION. The requests of the Release Unit (R160 to R168). -/

namespace Sys2Proof.Machine

open Sys2Proof

/-! ### QA-RESULT (R160) -/

/-- A QA outcome acts on a lot in QA-WAIT (R34, R160). -/
def takeQa (rnd : Round) (x : LotSlot) (outcome : QaOutcome) (s : State) : State :=
  match outcome with
  | .pass => refreshLot x (modLot x (fun l => { l with route := .routeEnd }) s)
  | .fail => refreshLot x (modLot x (fun l => { l with route := .qaFailed }) (mergeHold rnd x .qa 0 0 s))

/-- QA-RESULT (R160). -/
def qaResult (id : Text) (outcome : Option QaOutcome) : Owner := fun s =>
  match outcome with
  | none => refuse .badField s
  | some o =>
    if !validName id then refuse .badField s
    else
      match s.findLot id with
      | none => refuse .notFound s
      | some x =>
        match s.lot x with
        | none => refuse .notFound s
        | some l =>
          if l.state ≠ .qaWait || !l.holds.isEmpty then refuse .wrongState s
          else
            let s1 := takeQa offerRound x o s
            accept (.lotState (match s1.lot x with | some l => l.state | none => l.state)) s1

/-- QA_RESULT (R160). -/
def execQaResult (tag : BitVec 16) (id : Text) (outcome : Option QaOutcome) (s : State) : Host.Outcome State Fault Refusal :=
  .next (takeRequest tag .qaResult (withText id fun id => qaResult id outcome) s)

/-! ### The shipment table (R161, R162) -/

/-- SHIP-OPEN (R161). -/
def shipOpen (ship code : Text) : Owner := fun s =>
  if !validName ship || !validCode code then refuse .badField s
  else if (s.findShip ship).isSome then refuse .duplicate s
  else
    match s.findProduct code with
    | none => refuse .notFound s
    | some i =>
      match s.freeShip with
      | none => refuse .tableFull s
      | some k => accept (.slot k) (s.setShip k (some ⟨ship, i, .open, [], 0, none⟩))

/-- SHIP_OPEN (R161). -/
def execShipOpen (tag : BitVec 16) (ship code : Text) (s : State) : Host.Outcome State Fault Refusal :=
  .next (takeRequest tag .shipOpen (withText ship fun ship => withText code fun code => shipOpen ship code) s)

/-- A shipment with its member list changed: OPEN, progress 0, no marks (R162). -/
def Shipment.withMembers (ms : List LotSlot) (h : Shipment) : Shipment := { h.invalidate with members := ms }

/-- SHIP-ADD (R162). -/
def shipAdd (ship lot : Text) : Owner := fun s =>
  if !validName ship || !validName lot then refuse .badField s
  else
    match s.findShip ship, s.findLot lot with
    | some k, some x =>
      match s.ship k, s.lot x with
      | some h, some l =>
        if h.state = .released || l.product ≠ h.product || l.state.direct then refuse .wrongState s
        else if h.members.contains x then refuse .duplicate s
        else if (s.shipOf x).isSome then refuse .inUse s
        else if 16 ≤ h.members.length then refuse .tableFull s
        else accept (.members (h.members.length + 1)) (s.setShip k (some (h.withMembers (h.members ++ [x]))))
      | _, _ => refuse .notFound s
    | _, _ => refuse .notFound s

/-- SHIP_ADD (R162). -/
def execShipAdd (tag : BitVec 16) (ship lot : Text) (s : State) : Host.Outcome State Fault Refusal :=
  .next (takeRequest tag .shipAdd (withText ship fun ship => withText lot fun lot => shipAdd ship lot) s)

/-- SHIP-REMOVE (R162). Where several reasons hold R162 gives no order; BAD_FIELD is checked first, then NOT_FOUND, then WRONG_STATE
(assumption 35). -/
def shipRemove (ship lot : Text) : Owner := fun s =>
  if !validName ship || !validName lot then refuse .badField s
  else
    match s.findShip ship, s.findLot lot with
    | some k, some x =>
      match s.ship k with
      | some h =>
        if !h.members.contains x then refuse .notFound s
        else if h.state = .released then refuse .wrongState s
        else
          let ms := h.members.filter fun m => m ≠ x
          accept (.members ms.length) (s.setShip k (some (h.withMembers ms)))
      | none => refuse .notFound s
    | _, _ => refuse .notFound s

/-- SHIP_REMOVE (R162). -/
def execShipRemove (tag : BitVec 16) (ship lot : Text) (s : State) : Host.Outcome State Fault Refusal :=
  .next (takeRequest tag .shipRemove (withText ship fun ship => withText lot fun lot => shipRemove ship lot) s)

/-! ### Checking, acceptance, cancellation (R164 to R167) -/

/-- The issue attempted with every member marked: QUEUE_FULL while 8 tickets are queued, else the ticket (R165). -/
def attemptIssue (k : ShipSlot) (h : Shipment) (s : State) : State × Answer :=
  if 8 ≤ s.tickets.length then
    (s.setShip k (some { h with state := .checking, progress := h.members.length }),
      ⟨.refused .queueFull, .progress h.members.length⟩)
  else accept (.ticket (newTicket s h)) (issueTicket k h s)

/-- SHIP-CHECK (R164, R165). -/
def shipCheck (ship : Text) : Owner := fun s =>
  if !validName ship then refuse .badField s
  else
    match s.findShip ship with
    | none => refuse .notFound s
    | some k =>
      match s.ship k with
      | none => refuse .notFound s
      | some h =>
        if h.state = .released || h.members.isEmpty then refuse .wrongState s
        else
          match examine s h.members 4 h.progress with
          | .failed x n => (s.setShip k (some h.invalidate), ⟨.refused .wrongState, .checkFail (s.lotId x) n⟩)
          | .upTo p =>
            if p < h.members.length then
              (s.setShip k (some { h with state := .checking, progress := p }), ⟨.incomplete, .progress p⟩)
            else attemptIssue k h s

/-- SHIP_CHECK (R164). -/
def execShipCheck (tag : BitVec 16) (ship : Text) (s : State) : Host.Outcome State Fault Refusal :=
  .next (takeRequest tag .shipCheck (withText ship shipCheck) s)

/-- SHIP-ACCEPT (R166). -/
def shipAccept (n : Nat) : Owner := fun s =>
  if n = 0 then refuse .badField s
  else
    match s.tickets.find? fun t => t.number = n with
    | none => refuse .notFound s
    | some t => accept (.accepted n t.shipment t.lots t.total) (acceptTicket n s)

/-- SHIP_ACCEPT (R166). -/
def execShipAccept (tag : BitVec 16) (ticket : Nat) (s : State) : Host.Outcome State Fault Refusal :=
  .next (takeRequest tag .shipAccept (shipAccept ticket) s)

/-- SHIP-CANCEL (R167). -/
def shipCancel (ship : Text) : Owner := fun s =>
  if !validName ship then refuse .badField s
  else
    match s.findShip ship with
    | none => refuse .notFound s
    | some k =>
      match s.ship k with
      | none => refuse .notFound s
      | some h =>
        if h.state = .released then accept (.cancelled false) (withdraw k .cancel s)
        else accept (.cancelled true) (s.setShip k none)

/-- SHIP_CANCEL (R167). -/
def execShipCancel (tag : BitVec 16) (ship : Text) (s : State) : Host.Outcome State Fault Refusal :=
  .next (takeRequest tag .shipCancel (withText ship shipCancel) s)

/-! ### Queries (R168) -/

/-- A shipment as SHIP-QUERY shows it. -/
def shipView (s : State) (k : ShipSlot) (h : Shipment) : ShipView :=
  ⟨h.id, k, s.productCode h.product, h.state, h.progress, h.ticket⟩

/-- The members of a shipment as SHIP-QUERY shows them. -/
def memberViews (s : State) (h : Shipment) : List MemberView :=
  h.members.filterMap fun x => (s.lot x).map fun l => ⟨l.id, l.state, h.marked x⟩

/-- SHIP-QUERY (R168). -/
def shipQuery (ship : Option Text) : Owner := fun s =>
  match ship with
  | none =>
    accept (.shipments ((List.finRange 8).filterMap fun k => (s.ship k).map (shipView s k)) s.tickets s.ticketCounter) s
  | some id =>
    withText id (fun id s =>
      match s.findShip id with
      | none => refuse .notFound s
      | some k =>
        match s.ship k with
        | none => refuse .notFound s
        | some h => accept (.shipment (shipView s k h) (memberViews s h)) s) s

/-- SHIP_QUERY (R168). -/
def execShipQuery (tag : BitVec 16) (ship : Option Text) (s : State) : Host.Outcome State Fault Refusal :=
  .next (takeRequest tag .shipQuery (shipQuery ship) s)

/-- SUMMARY-QUERY (R168). Where both reasons hold R168 gives no order; BAD_FIELD is checked before NOT_FOUND (assumption 35). -/
def summaryQuery (id : Text) (step : Nat) : Owner := fun s =>
  if !validName id || !within 1 4 step then refuse .badField s
  else
    match s.findLot id with
    | none => refuse .notFound s
    | some x =>
      match s.lot x, s.summary x step with
      | some l, some u => accept (.summary u (conserves s x l u) (firstFailing (conservation s x l u))) s
      | _, _ => refuse .notFound s

/-- SUMMARY_QUERY (R168). -/
def execSummaryQuery (tag : BitVec 16) (id : Text) (step : Nat) (s : State) : Host.Outcome State Fault Refusal :=
  .next (takeRequest tag .summaryQuery (withText id fun id => summaryQuery id step) s)

end Sys2Proof.Machine
end

