-- ==== Sys2Proof/Machine/TallyRequests.lean ====
section
/-! DEFINITION. The requests of the Tally and Limit Unit (R141, R152, R153). -/

namespace Sys2Proof.Machine

open Sys2Proof

/-! ### TALLY-QUERY (R141) -/

/-- The figures of a monitored entry, formed at the request (R141). -/
def binFigure (s : State) (x : LotSlot) (l : Lot) (t : Nat) (e : MonEntry) : BinFigure :=
  let b := s.baseline l.product l.stepIndex e.bin
  ⟨e.bin, fraction ((s.tally x).first.bin e.bin) t, effectiveCeiling e b, e.mode, b.n, e.mask⟩

/-- What TALLY-QUERY carries (R141). For a lot whose step its product no longer has, R141 gives no class: it is shown as EMPTY, without
figures (assumptions 43 and 44). -/
def tallyView (s : State) (x : LotSlot) (l : Lot) : TallyView :=
  let t := (s.tally x).first.sum
  match s.stepOf l with
  | none => ⟨l.stepIndex, l.route, s.tally x, .empty, none, []⟩
  | some st =>
    let cls := evalClass t st.limits.minSample
    if cls = .full then
      ⟨l.stepIndex, l.route, s.tally x, cls, some (fraction ((s.tally x).first.bin 1) t, st.limits.yieldFloor),
        st.limits.entries.map (binFigure s x l t)⟩
    else ⟨l.stepIndex, l.route, s.tally x, cls, none, []⟩

/-- TALLY_QUERY (R141). -/
def execTallyQuery (tag : BitVec 16) (id : Text) (s : State) : Host.Outcome State Fault Refusal :=
  .next (takeRequest tag .tallyQuery (onLot id fun x l t => accept (.tally (tallyView t x l)) t) s)

/-! ### BASELINE-QUERY and BASELINE-SET (R152, R153) -/

/-- The learned value a reply gives: none for n = 0 (R152). -/
def shownLearned (e : MonEntry) (b : Baseline) : Option Nat := if b.n = 0 then none else some (learnedValue e b)

/-- The row of a monitored entry (R152). -/
def baselineRow (s : State) (i : ProductIx) (step : Nat) (e : MonEntry) : BaselineRow :=
  let b := s.baseline i step e.bin
  ⟨step, e.bin, e.mode, e.k, e.ceiling, e.floor, b, shownLearned e b, effectiveCeiling e b⟩

/-- The rows of one step of a product. -/
def baselineRows (s : State) (i : ProductIx) (p : Product) (step : Nat) : List BaselineRow :=
  match p.step step with
  | none => []
  | some st => st.limits.entries.map (baselineRow s i step)

/-- The steps a BASELINE-QUERY names: one, or with 0 every step of the route (R152). -/
def stepsNamed (p : Product) (step : Nat) : List Nat :=
  if step = 0 then (List.range p.steps.length).map (· + 1) else [step]

/-- BASELINE-QUERY (R152). Where both reasons hold R152 gives no order; BAD_FIELD is checked before NOT_FOUND (assumption 35). -/
def baselineQuery (code : Text) (step : Nat) : Owner := fun s =>
  if !validCode code || !(step ≤ 4) then refuse .badField s
  else
    match s.findProduct code with
    | none => refuse .notFound s
    | some i =>
      match s.product i with
      | none => refuse .notFound s
      | some p =>
        if p.steps.length < step then refuse .notFound s
        else accept (.baselines i ((stepsNamed p step).flatMap (baselineRows s i p))) s

/-- BASELINE_QUERY (R152). -/
def execBaselineQuery (tag : BitVec 16) (code : Text) (step : Nat) (s : State) : Host.Outcome State Fault Refusal :=
  .next (takeRequest tag .baselineQuery (withText code fun code => baselineQuery code step) s)

/-- BASELINE-SET (R153). -/
def baselineSet (code : Text) (step bin n mean deviation : Nat) : Owner := fun s =>
  if !validCode code || !within 1 4 step || !within 2 16 bin || !(n ≤ 255) || !validPpm mean || !validPpm deviation
      || (n == 0 && !(mean == 0 && deviation == 0)) then refuse .badField s
  else
    match s.findProduct code with
    | none => refuse .notFound s
    | some i =>
      match ((s.product i).bind fun p => p.step step).bind fun st => st.limits.entries.find? fun e => e.bin = bin with
      | none => refuse .notFound s
      | some e =>
        let b : Baseline := ⟨n, mean, deviation⟩
        accept (.baseline b (shownLearned e b) (effectiveCeiling e b)) (setBaseline i step bin b s)

/-- BASELINE_SET (R153). -/
def execBaselineSet (tag : BitVec 16) (code : Text) (step bin n mean deviation : Nat) (s : State) :
    Host.Outcome State Fault Refusal :=
  .next (takeRequest tag .baselineSet (withText code fun code => baselineSet code step bin n mean deviation) s)

end Sys2Proof.Machine
end

