-- ==== Sys2Proof/Machine/Dispatch.lean ====
section
/-! DEFINITION. The dispatch of a command to its meaning: one arm per constructor of Instr. -/

namespace Sys2Proof.Machine

open Sys2Proof

def exec (i : Instr) (s : State) : Host.Outcome State Fault Refusal :=
  match i with
  | .productDefine tag req => Sys2Proof.Machine.execProductDefine tag req s
  | .productDelete tag code => Sys2Proof.Machine.execProductDelete tag code s
  | .productQuery tag code => Sys2Proof.Machine.execProductQuery tag code s
  | .limitMask tag code step check mask => Sys2Proof.Machine.execLimitMask tag code step check mask s
  | .productRevise tag code step revision => Sys2Proof.Machine.execProductRevise tag code step revision s
  | .catalogAdd tag name revision length check => Sys2Proof.Machine.execCatalogAdd tag name revision length check s
  | .catalogState tag name revision st => Sys2Proof.Machine.execCatalogState tag name revision st s
  | .catalogRemove tag name revision => Sys2Proof.Machine.execCatalogRemove tag name revision s
  | .catalogQuery tag entry => Sys2Proof.Machine.execCatalogQuery tag entry s
  | .lotRegister tag id code priority startQty split => Sys2Proof.Machine.execLotRegister tag id code priority startQty split s
  | .lotDispose tag id reason disposition => Sys2Proof.Machine.execLotDispose tag id reason disposition s
  | .lotHold tag id => Sys2Proof.Machine.execLotHold tag id s
  | .lotPriority tag id priority => Sys2Proof.Machine.execLotPriority tag id priority s
  | .lotQuery tag id => Sys2Proof.Machine.execLotQuery tag id s
  | .lotDelete tag id => Sys2Proof.Machine.execLotDelete tag id s
  | .lotExport tag id => Sys2Proof.Machine.execLotExport tag id s
  | .lotImport tag context => Sys2Proof.Machine.execLotImport tag context s
  | .cellConfigure tag cell name speed limit lifetime interval => Sys2Proof.Machine.execCellConfigure tag cell name speed limit lifetime interval s
  | .cellQuery tag cell => Sys2Proof.Machine.execCellQuery tag cell s
  | .cellPause tag cell => Sys2Proof.Machine.execCellPause tag cell s
  | .cellResume tag cell => Sys2Proof.Machine.execCellResume tag cell s
  | .cellDown tag cell => Sys2Proof.Machine.execCellDown tag cell s
  | .cellUp tag cell => Sys2Proof.Machine.execCellUp tag cell s
  | .cellClear tag cell => Sys2Proof.Machine.execCellClear tag cell s
  | .cellSitesOn tag cell sites => Sys2Proof.Machine.execCellSitesOn tag cell sites s
  | .cellContactor tag cell limit resetCounter => Sys2Proof.Machine.execCellContactor tag cell limit resetCounter s
  | .dispatchQuery tag start => Sys2Proof.Machine.execDispatchQuery tag start s
  | .dispatchAging tag limit => Sys2Proof.Machine.execDispatchAging tag limit s
  | .loadData tag cell offset data => Sys2Proof.Machine.execLoadData tag cell offset data s
  | .cellErrReset tag cell => Sys2Proof.Machine.execCellErrReset tag cell s
  | .tallyQuery tag id => Sys2Proof.Machine.execTallyQuery tag id s
  | .baselineQuery tag code step => Sys2Proof.Machine.execBaselineQuery tag code step s
  | .baselineSet tag code step bin n mean deviation => Sys2Proof.Machine.execBaselineSet tag code step bin n mean deviation s
  | .qaResult tag id outcome => Sys2Proof.Machine.execQaResult tag id outcome s
  | .shipOpen tag ship code => Sys2Proof.Machine.execShipOpen tag ship code s
  | .shipAdd tag ship lot => Sys2Proof.Machine.execShipAdd tag ship lot s
  | .shipRemove tag ship lot => Sys2Proof.Machine.execShipRemove tag ship lot s
  | .shipCheck tag ship => Sys2Proof.Machine.execShipCheck tag ship s
  | .shipAccept tag ticket => Sys2Proof.Machine.execShipAccept tag ticket s
  | .shipCancel tag ship => Sys2Proof.Machine.execShipCancel tag ship s
  | .shipQuery tag ship => Sys2Proof.Machine.execShipQuery tag ship s
  | .summaryQuery tag id step => Sys2Proof.Machine.execSummaryQuery tag id step s
  | .identify tag => Sys2Proof.Machine.execIdentify tag s
  | .setTime tag time => Sys2Proof.Machine.execSetTime tag time s
  | .floorStatus tag => Sys2Proof.Machine.execFloorStatus tag s
  | .floorReset tag => Sys2Proof.Machine.execFloorReset tag s
  | .unknownKind tag fault => Sys2Proof.Machine.execUnknownKind tag fault s
  | .hostCandidateFail bytes => Sys2Proof.Machine.execHostCandidateFail bytes s
  | .hostLineBreak => Sys2Proof.Machine.execHostLineBreak s
  | .hostFrameSent => Sys2Proof.Machine.execHostFrameSent s
  | .floorTimeTick => Sys2Proof.Machine.execFloorTimeTick s
  | .coldReset cause strap1 strap0 => Sys2Proof.Machine.execColdReset cause strap1 strap0 s
  | .hello cell name sites classes kit => Sys2Proof.Machine.execHello cell name sites classes kit s
  | .kit cell code => Sys2Proof.Machine.execKit cell code s
  | .purged cell count => Sys2Proof.Machine.execPurged cell count s
  | .soakReached cell => Sys2Proof.Machine.execSoakReached cell s
  | .status cell => Sys2Proof.Machine.execStatus cell s
  | .siteResult cell body => Sys2Proof.Machine.execSiteResult cell body s
  | .groupEnd cell body => Sys2Proof.Machine.execGroupEnd cell body s
  | .jam cell => Sys2Proof.Machine.execJam cell s
  | .jamClear cell => Sys2Proof.Machine.execJamClear cell s
  | .runEnd cell tested check => Sys2Proof.Machine.execRunEnd cell tested check s
  | .blockAck cell offset => Sys2Proof.Machine.execBlockAck cell offset s
  | .blockNak cell offset => Sys2Proof.Machine.execBlockNak cell offset s
  | .imageCheck cell check => Sys2Proof.Machine.execImageCheck cell check s
  | .malformed cell kind => Sys2Proof.Machine.execMalformed cell kind s
  | .cellCandidateFail cell bytes => Sys2Proof.Machine.execCellCandidateFail cell bytes s
  | .lineBreak cell => Sys2Proof.Machine.execLineBreak cell s
  | .silence cell => Sys2Proof.Machine.execSilence cell s
  | .cellFrameSent cell => Sys2Proof.Machine.execCellFrameSent cell s
  | .intakeRecordTaken cell => Sys2Proof.Machine.execIntakeRecordTaken cell s
  | .purgeTimeout cell => Sys2Proof.Machine.execPurgeTimeout cell s
  | .soakTimeout cell => Sys2Proof.Machine.execSoakTimeout cell s
  | .dwellExpiry cell => Sys2Proof.Machine.execDwellExpiry cell s
  | .dataTimeout cell offset => Sys2Proof.Machine.execDataTimeout cell offset s
  | .ackTimeout cell offset => Sys2Proof.Machine.execAckTimeout cell offset s
  | .checkTimeout cell => Sys2Proof.Machine.execCheckTimeout cell s

end Sys2Proof.Machine
end

