-- ==== Sys2Proof/Machine/Layouts.lean ====
section
/-! DEFINITION. What the host line sends (R172, R176, R179, R186 to R189): each field of every reply and report in its form of R186, under
a layout that gives what R186 leaves to the layouts, and the frames. -/

namespace Sys2Proof.Machine

open Sys2Proof

/-! ### Fields and records (R186) -/

/-- A field of a record, in the forms of R186. -/
inductive Field where
  /-- A field whose bytes R186 gives: a fixed text, a set, a listed enumeration; or records and bytes that follow one another. -/
  | fixed (bytes : List Byte)
  /-- A number, or none, in a width from `least` to `most` bytes that the layout gives. -/
  | number (least most : Nat) (v : Option Nat)
  /-- The value at place `ix` of an enumeration of `size` values: one byte, whose codes the layout lists. -/
  | code (e : Enumeration) (size ix : Nat)
  /-- At most eight flags, each a bit of one flags byte. -/
  | flags (bs : List Bool)
  /-- Records one after another, with their count before them where the layout has one. -/
  | list (records : List (List Byte))
  deriving DecidableEq, Repr

/-- The least bytes that hold every number up to the top of a range. -/
def leastWidth (top : Nat) : Nat := if top < 256 then 1 else if top < 65536 then 2 else if top < 16777216 then 3 else 4

/-- A number of a range in the width that its layout gives: from the least that holds the range to 4 bytes. -/
def numTo (top v : Nat) : Field := .number (leastWidth top) 4 (some v)

/-- Such a number, or none. -/
def numToOpt (top : Nat) (v : Option Nat) : Field := .number (leastWidth top) 4 v

/-- An image offset or an image length: 3 bytes. -/
def imageNum (v : Option Nat) : Field := .number 3 3 v

/-- A fixed text of its width; without a text every byte is a pad byte (assumption 2). -/
def textOf (width : Nat) (t : Option Text) : Field := .fixed (fixedText width (t.getD []))

/-- A number in a width of 1 to 4 bytes, most significant byte first. -/
def numBytes (width v : Nat) : List Byte := (num32 v).drop (4 - width)

/-- The flags byte with the flags at their places: every other bit is 0. -/
def flagsByte : List Nat → List Bool → Byte
  | p :: ps, b :: bs => (if b then 1#8 <<< p else 0) ||| flagsByte ps bs
  | _, _ => 0

/-- The width of a number: of the widths the field may have, the one the layout gives. -/
def fieldWidth (least most choice : Nat) : Nat := least + choice % (most + 1 - least)

/-- The bytes of a field, the one of its number in its record, under a layout. -/
def Field.bytes (pick : LayoutPoint → Nat → Nat) (n : Nat) : Field → List Byte
  | .fixed bytes => bytes
  | .number least most v =>
    numBytes (fieldWidth least most (pick (.width n) 0)) (v.getD (pick (.absent n) 0))
  | .code e size ix => [BitVec.ofNat 8 ((draw (pick (.codes e)) size (List.range 256)).getD ix 0)]
  | .flags bs => [flagsByte (draw (pick (.places n)) bs.length (List.range 8)) bs]
  | .list records =>
    (if pick (.counted n) 0 % 2 = 0 then [] else numBytes (fieldWidth 1 4 (pick (.width n) 0)) records.length) ++ records.flatten

/-- The bytes of the fields from one number on. -/
def fieldsFrom (pick : LayoutPoint → Nat → Nat) : Nat → List Field → List (List Byte)
  | _, [] => []
  | n, f :: fs => f.bytes pick n :: fieldsFrom pick (n + 1) fs

/-- The bytes of a record: its fields, in the order the layout gives. -/
def recordBytes (layout : Layout) (part : LayoutPart) (fs : List Field) : List Byte :=
  (draw (layout part .order) fs.length (fieldsFrom (layout part) 0 fs)).flatten

/-- A layout with every number in the least width that holds its range. -/
def narrow (layout : Layout) : Layout := fun part point n =>
  match point with
  | .width _ => 0
  | point => layout part point n

/-- Numbers of one range, each as a record of its own. -/
def numbersOf (layout : Layout) (part : LayoutPart) (top : Nat) (vs : List Nat) : List (List Byte) :=
  vs.map fun v => recordBytes layout part [numTo top v]

/-- Sixteen counts, bin 1 first (R123, R155). -/
def countsOf (layout : Layout) (cs : Counts) : Field := .fixed (numbersOf layout .count 65535 cs.toList).flatten

/-! ### Enumerations whose values R186 does not list -/

/-- A cell state (R44). -/
def CellState.field (x : CellState) : Field := .code .cellState 10 x.ctorIdx
/-- A fault code (R43). -/
def FaultCode.field (x : FaultCode) : Field := .code .faultCode 4 x.ctorIdx
/-- A lot state (R20). -/
def LotState.field (x : LotState) : Field := .code .lotState 10 x.ctorIdx
/-- A route position (R20). -/
def RoutePos.field (x : RoutePos) : Field := .code .routePos 5 x.ctorIdx
/-- A hold reason (R28). -/
def HoldReason.field (x : HoldReason) : Field := .code .holdReason 7 x.ctorIdx
/-- A catalog state (R12). -/
def CatState.field (x : CatState) : Field := .code .catState 2 x.ctorIdx
/-- The mode of a monitored entry (R3). -/
def BinMode.field (x : BinMode) : Field := .code .binMode 2 x.ctorIdx
/-- A shipment's state (R161). -/
def ShipState.field (x : ShipState) : Field := .code .shipState 3 x.ctorIdx
/-- A load's first error, or GOOD or none without one (R87, R103). -/
def loadErrorField : Option LoadError → Field
  | none => .code .loadError 6 0
  | some e => .code .loadError 6 (e.ctorIdx + 1)
/-- A pause-reason set: a set byte of three flags (R43). -/
def PauseSet.field (x : PauseSet) : Field := .flags [x.hold, x.jam, x.operator]
/-- A mask value (R186). -/
def Mask.field (x : Mask) : Field := .fixed [maskByte x]
/-- A bin set that holds fail bins only: bit 0 is unused, and is sent as 0 (R186). -/
def failBinsField (x : BinSet) : Field := .fixed (be16 (x &&& 0xFFFE))

/-! ### The records that replies carry -/

/-- A monitored bin entry (R3). -/
def MonEntry.record (layout : Layout) (e : MonEntry) : List Byte :=
  recordBytes layout .monitored
    [numTo 16 e.bin, numTo 1000000 e.ceiling, numTo 1000000 e.floor, e.mode.field, numTo 32 e.k, e.mask.field]

/-- A step record with its limit set (R2, R3). -/
def StepRec.record (layout : Layout) (t : StepRec) : List Byte :=
  recordBytes layout .step
    [.fixed [tempClassByte t.tempClass], textOf 16 (some t.program), numTo 65535 t.revision, textOf 8 (some t.kit), numTo 8 t.minSites,
      numTo 7200 t.soakTimeout, numTo 1800 t.dwell, failBinsField t.retestBins, numTo 1000000 t.limits.yieldFloor, t.limits.yieldMask.field,
      numTo 65535 t.limits.minSample, numTo 255 t.limits.consecFail, .list (t.limits.entries.map (MonEntry.record layout))]

/-- The fields of a product record (R1, R5). -/
def ProductView.fields (layout : Layout) (p : ProductView) : List Field :=
  [textOf 10 (some p.code), .list (p.steps.map (StepRec.record layout)), numTo 500 p.qaSample]

/-- The fields of a catalog entry (R12). -/
def CatEntry.fields (e : CatEntry) : List Field :=
  [textOf 16 (some e.name), numTo 65535 e.revision, imageNum (some e.length), .fixed (be32 e.check), e.state.field]

/-- The place of a portion state among the four (R23). -/
def PortionState.field : PortionState → Field
  | .queued => .code .portionState 4 0
  | .pending _ => .code .portionState 4 1
  | .atCell _ => .code .portionState 4 2
  | .done => .code .portionState 4 3

/-- The cell a portion's state names (R23). -/
def PortionState.cellNo : PortionState → Option Nat
  | .pending c | .atCell c => some c.val
  | .queued | .done => none

/-- A portion record (R23, R38). -/
def Portion.record (layout : Layout) (p : Portion) : List Byte :=
  recordBytes layout .portion
    [numTo 12 p.number, p.state.field, numToOpt 15 p.state.cellNo, numTo 65535 p.q, numTo 65535 p.t, numTo 65535 p.r, numTo 65535 p.l,
      numTo 65535 p.h, numToOpt 65535 p.revision, .list (numbersOf layout .revision 65535 p.placedRevs), numTo 255 p.runCount,
      .number 4 4 p.firstProduction, .number 4 4 p.endTime, numTo 255 p.damaged]

/-- A hold record (R28). -/
def Hold.record (layout : Layout) (h : Hold) : List Byte :=
  recordBytes layout .hold
    [h.reason.field, .fixed (num32 h.time), numTo 255 h.occurrences, numTo 4 h.step, numTo 12 h.portion, numTo 65535 h.detail]

/-- The four values of a set flag (R123). -/
def FlagValues.record (layout : Layout) (v : FlagValues) : List Byte :=
  recordBytes layout .flagValues [numTo 12 v.portion, .fixed (num32 v.time), numTo 1000000 v.figure, numTo 1000000 v.bound]

/-- The bin flags, of the bins 2 to 16: the set of the bins whose flag is set, and the values of those flags, in ascending order of bin
(R123; assumption 2). -/
def binFlagFields (layout : Layout) (flags : Vector (Option FlagValues) 16) : List Field :=
  [failBinsField ((List.range 16).foldl (fun x k => if (flags.toList.getD k none).isSome then BinSet.add x (k + 1) else x) 0),
    .list (((flags.toList.drop 1).filterMap id).map (FlagValues.record layout))]

/-- The values of the yield flag, where it is set (R123). -/
def yieldFlagField (layout : Layout) (flag : Option FlagValues) : Field := .fixed (flag.toList.flatMap (FlagValues.record layout))

/-- The fields of a lot step record: the sums, the counts, the flags with their values, the waive set, small at final (R123). That a
waive set is a flag for its yield check and a bin set for its bins is the model's choice (DESIGN CHOICE, assumption 2). -/
def LotStepRec.fields (layout : Layout) (r : LotStepRec) : List Field :=
  [numTo 65535 r.first.sum, countsOf layout r.first, numTo 65535 r.retest.sum, countsOf layout r.retest,
    .flags [r.yieldFlag.isSome, r.waive.yield, r.smallAtFinal], yieldFlagField layout r.yieldFlag, failBinsField r.waive.bins]
    ++ binFlagFields layout r.binFlags

/-- The fields of a step summary, with what SUMMARY-QUERY says of the conservation relation, where it asks (R155, R168). -/
def Summary.fields (layout : Layout) (u : Summary) (verdict : Option (Bool × Option Nat)) : List Field :=
  [numTo 4 u.step, textOf 16 (some u.program), failBinsField u.retestBins, numTo 65535 u.qs, countsOf layout u.firstCounts,
    numTo 65535 u.firstT, numTo 65535 u.firstL, numTo 65535 u.rq, countsOf layout u.retestCounts, numTo 65535 u.retestT,
    numTo 65535 u.retestL, countsOf layout u.finalCounts, numTo 65535 u.finalGood, .list (numbersOf layout .revision 65535 u.revisions),
    .flags ([u.retestIncluded, u.yieldFlag.isSome, u.waive.yield, u.smallAtFinal, u.checkRaised]
      ++ verdict.toList.map Prod.fst), yieldFlagField layout u.yieldFlag, failBinsField u.waive.bins]
    ++ binFlagFields layout u.binFlags ++ verdict.toList.map fun v => numToOpt 8 v.2

/-- The fields of a lot record (R19, R38), with the shipment whose member the lot is. -/
def Lot.fields (layout : Layout) (l : Lot) (shipment : Option Text) : List Field :=
  [textOf 16 (some l.id), numTo 15 l.product.val, numTo 3 l.priority, numTo 65535 l.startQty, numTo 65535 l.split, numTo 4 l.stepIndex,
    l.route.field, .flags [l.retest, l.baselineEligible, l.small, shipment.isSome], l.state.field, .list (l.holds.map (Hold.record layout)),
    .fixed (num32 l.stepReady), .fixed (num32 l.regTime), numTo top32 l.regNo, .list (l.portions.map (Portion.record layout)),
    textOf 16 shipment]

/-- The fields of a lot context record (R40; assumption 19). -/
def LotContext.fields (layout : Layout) (c : LotContext) : List Field :=
  [textOf 16 (some c.id), numTo 15 c.product, textOf 10 (some c.productCode), .list (c.routePrograms.map (fixedText 16)), numTo 3 c.priority,
    numTo 65535 c.startQty, numTo 65535 c.split, numTo 4 c.stepIndex, c.route.field,
    .flags [c.retest, c.baselineEligible, c.small, c.checkMark], c.state.field, .list (c.holds.map (Hold.record layout)),
    .fixed (num32 c.stepReady), .fixed (num32 c.regTime), .list (c.portions.map (Portion.record layout)),
    .list (c.summaries.map fun u => recordBytes layout .summary (u.fields layout none)),
    .fixed (recordBytes layout .tally (c.tally.fields layout))]

/-- A slot of a cell: the lot id and the portion number it holds, and for the current portion its H (R68). -/
def slotField (layout : Layout) (v : Option SlotView) (h : List (Option Nat)) : Field :=
  .fixed (recordBytes layout .slot
    ([textOf 16 (v.bind (·.lot)), numToOpt 12 (v.map (·.portion))] ++ h.map (numToOpt 65535)))

/-- A load context: every field of R87's table. -/
def Load.record (layout : Layout) (x : Load) : List Byte :=
  recordBytes layout .load
    [textOf 16 (x.program.map (·.name)), numToOpt 65535 (x.program.map (·.revision)), imageNum (some x.length),
      .number 4 4 (x.catalogCheck.map (·.toNat)), imageNum (some x.nextWant),
      .list (x.wants.map fun o => be24 (BitVec.ofNat 24 o)), .list (x.inFlight.map fun o => be24 (BitVec.ofNat 24 o)),
      numTo 2 (x.wants.length + x.inFlight.length), numTo 16777215 x.relayed, .fixed (be32 x.crc),
      .number 4 4 (x.relayedCheck.map (·.toNat)), .number 4 4 (x.stationCheck.map (·.toNat)), .code .loadState 6 x.state.ctorIdx,
      loadErrorField x.error]

/-- The six sticky flags (R116). -/
def LinkFlags.field (f : LinkFlags) : Field := .flags [f.seqGap, f.siteBad, f.dupSite, f.overrun, f.setupLate, f.stray]

/-- What a CELL-QUERY reply carries: every field of R43, the port's state and, in LOADING, the load (R68, R87, R121). That the receiver's
state is sent as a flag, 1 for in step, and the link status as an enumeration, is the model's choice (DESIGN CHOICE, assumption 2). -/
def CellView.fields (layout : Layout) (v : CellView) : List Field :=
  [.flags [v.cell.configured, v.cell.cleared, v.cell.runStarted, v.cell.downAfterPurge, v.cell.maintenanceDue, v.inStep, v.runOpen,
      v.runEndHeld],
    textOf 16 v.cell.stationName, numTo 460800 v.cell.speed, .code .linkStatus 2 (if v.cell.linkUp then 0 else 1),
    numToOpt 8 v.cell.siteCount, .fixed [v.cell.classes.getD 0], textOf 8 v.cell.kit, textOf 16 (v.cell.program.map (·.name)),
    numToOpt 65535 (v.cell.program.map (·.revision)), .fixed [v.cell.siteOff], .fixed [v.enabled],
    .fixed (numbersOf layout .count 255 v.cell.consec.toList).flatten, v.cell.state.field, v.cell.pause.field,
    slotField layout v.current [v.currentH], slotField layout v.pendingSlot [], numTo 65535 v.cell.runTested, .fixed (num32 v.cell.lifetime),
    numTo 4000000000 v.cell.contactorLimit, numTo 3 v.cell.loadFailures, numTo 255 v.cell.tallyInterval, v.cell.fault.field,
    numTo 16 v.queued, numToOpt 65535 (v.lastTouchdown.map (·.toNat)), numTo 65535 v.resultCheck.toNat, v.flags.field,
    .fixed (v.load.toList.flatMap (Load.record layout))]

/-- An entry of the wait list as DISPATCH-QUERY carries it (R84). -/
def EntryView.record (layout : Layout) (e : EntryView) : List Byte :=
  recordBytes layout .waitEntry
    [textOf 16 (some e.lot), numTo 127 e.slot.val, numTo 3 e.priority, .fixed (num32 e.stepReady), numTo 15 e.skip, numTo 4 e.step,
      .fixed [passByte e.pass], numTo 8 e.queued, .code .entryStatus 3 e.status.ctorIdx]

/-- The fields of a DISPATCH-QUERY reply (R84). -/
def dispatchFields (layout : Layout) (aging : Nat) (pointer : CellId) (waiting : List (CellId × WaitKind)) (count : Nat)
    (entries : List EntryView) : List Field :=
  [numTo 15 aging, numTo 15 pointer.val,
    .list (waiting.map fun w => recordBytes layout .waiting [numTo 15 w.1.val, .code .waitKind 2 w.2.ctorIdx]),
    numTo 128 count, .list (entries.map (EntryView.record layout))]

/-- A layout of the DISPATCH-QUERY reply in which its largest, of 16 waiting cells and 32 entries, has room in a body: the layout given
where it is one, else that one with its numbers in their least widths (R84, R172; assumption 2). -/
def roomyDispatch (layout : Layout) : Layout :=
  if (recordBytes layout .body (dispatchFields layout 0 0 (List.replicate 16 (0, .idle)) 0
      (List.replicate 32 ⟨[], 0, 0, 0, 0, 0, .first, 0, .held⟩))).length ≤ 1197 then layout
  else narrow layout

/-- The figures of a monitored entry in a TALLY-QUERY reply (R141). -/
def BinFigure.record (layout : Layout) (b : BinFigure) : List Byte :=
  recordBytes layout .figure
    [numTo 16 b.bin, numTo 1000000 b.fraction, numTo 1000000 b.ceiling, b.mode.field, numTo 255 b.n, b.mask.field]

/-- The fields of a TALLY-QUERY reply; the yield figures for a FULL class (R141). -/
def TallyView.fields (layout : Layout) (v : TallyView) : List Field :=
  [numTo 4 v.step, v.route.field, .code .evalClass 3 v.cls.ctorIdx] ++ v.tally.fields layout
    ++ [.list (v.bins.map (BinFigure.record layout))]
    ++ v.yield.toList.flatMap fun y => [numTo 1000000 y.1, numTo 1000000 y.2]

/-- A row of a BASELINE-QUERY reply (R152). -/
def BaselineRow.record (layout : Layout) (r : BaselineRow) : List Byte :=
  recordBytes layout .row
    [numTo 4 r.step, numTo 16 r.bin, r.mode.field, numTo 32 r.k, numTo 1000000 r.ceiling, numTo 1000000 r.floor, numTo 255 r.baseline.n,
      numTo 1000000 r.baseline.mean, numTo 1000000 r.baseline.dev, numToOpt 9000000 r.learned, numTo 1000000 r.effective]

/-- The fields of a shipment (R168). -/
def ShipView.fields (v : ShipView) : List Field :=
  [textOf 16 (some v.id), numTo 7 v.slot.val, textOf 10 (some v.product), v.state.field, numTo 16 v.progress, numToOpt 65535 v.ticket]

/-- A member of a shipment (R168). -/
def MemberView.record (layout : Layout) (m : MemberView) : List Byte :=
  recordBytes layout .member [textOf 16 (some m.lot), m.state.field, .flags [m.marked]]

/-- The fields of an IDENTIFY reply (R181). -/
def Identity.fields (v : Identity) : List Field :=
  [numTo 65535 v.family.toNat, numTo 255 v.revision, numTo 2000000 v.speed, numTo 16 v.cells, numTo 16 v.products, numTo 4 v.routeSteps,
    numTo 4 v.monitored, numTo 32 v.catalog, numTo 128 v.lots, numTo 128 v.waitList, numTo 8 v.buffers, numTo 256 v.bufferSize,
    numTo 8 v.shipments, numTo 16 v.members, numTo 8 v.tickets, numTo 64 v.reports, numTo 16 v.replies, numTo 8 v.fullReplies,
    .fixed (num32 v.time)]

/-- The fields of a FLOOR-STATUS reply (R182). -/
def FloorView.fields (v : FloorView) : List Field :=
  [.fixed (num32 v.time)] ++ v.lots.map (fun p => numTo 128 p.2)
    ++ [numTo 128 v.freeLots, numTo 128 v.waitEntries, numTo 16 v.productsFree, numTo 16 v.productsDefined, numTo 16 v.productsInUse,
      numTo 32 v.approved, numTo 32 v.suspended, numTo 16 v.unconfigured]
    ++ v.cells.map (fun p => numTo 16 p.2)
    ++ [numTo 16 v.maintenanceDue, numTo 16 v.activeLoads, numTo 8 v.freeBuffers, numTo 8 v.shipsOpen, numTo 8 v.shipsChecking,
      numTo 8 v.shipsReleased, numTo 8 v.tickets, numTo 65535 v.ticketCounter, numTo 64 v.reports, numTo 255 v.lostReports,
      numTo 255 v.lostRequests, numTo 255 v.rxErrors]

/-! ### Replies (R176, R187, R188) -/

/-- The fields of a reply that is not refused, as its owning rule names them, under the layout of its kind. The ticket record is R189's;
the two floor times of SET-TIME stand in the order R180 names them (assumption 2); of a SHIP-QUERY that names no shipment the tickets
follow the shipments, each record whole (R168, R189). -/
def ReplyBody.fields (layout : Layout) : ReplyBody → List Field
  | .none => []
  | .product ix p => numTo 15 ix.val :: p.fields layout
  | .productState ix inUse live p =>
    [numTo 15 ix.val, .code .slotState 2 (if inUse then 1 else 0), numTo 128 live] ++ p.fields layout
  | .mask m => [m.field]
  | .revised old new => [numTo 65535 old, numTo 65535 new]
  | .entry e => e.fields
  | .entries count es => [numTo 32 count, .fixed (es.flatMap fun e => recordBytes layout .catalogEntry e.fields)]
  | .registered x sizes => [numTo 127 x.val, numTo 8 sizes.length, .fixed (numbersOf layout .size 65535 sizes).flatten]
  | .lotState st => [st.field]
  | .occurrence n => [numTo 255 n]
  | .lot l ship => l.fields layout ship
  | .context c => c.fields layout
  | .imported x st => [numTo 127 x.val, st.field]
  | .configured name speed most lifetime interval =>
    [textOf 16 (some name), numTo 460800 speed, numTo 4000000000 most, .fixed (num32 lifetime), numTo 255 interval]
  | .cell v => v.fields layout
  | .paused st reasons => [st.field, reasons.field]
  | .cellState st => [st.field]
  | .sites enabled => [.fixed [enabled]]
  | .contactor most counter due => [numTo 4000000000 most, .fixed (num32 counter), .flags [due]]
  | .dispatch top pointer cells count es => dispatchFields layout top pointer cells count es
  | .aging most => [numTo 15 most]
  | .loadTaken offset relayed oldest => [imageNum (some offset), numTo 16777215 relayed, imageNum oldest]
  | .expectedOffset offset => [imageNum (some offset)]
  | .flags f => [f.field]
  | .tally v => v.fields layout
  | .baselines ix rows => [numTo 15 ix.val, .list (rows.map (BaselineRow.record layout))]
  | .baseline b learned effective =>
    [numTo 255 b.n, numTo 1000000 b.mean, numTo 1000000 b.dev, numToOpt 9000000 learned, numTo 1000000 effective]
  | .slot n => [numTo 7 n.val]
  | .members n => [numTo 16 n]
  | .checkFail id n => [textOf 16 (some id), numTo 5 n]
  | .progress n => [numTo 16 n]
  | .ticket t => [.fixed t.bytes]
  | .accepted number ship lots total => [numTo 65535 number, textOf 16 (some ship), numTo 16 lots, numTo 1048560 total]
  | .cancelled freed => [.code .cancelled 2 (if freed then 0 else 1)]
  | .shipment v ms => v.fields ++ [.list (ms.map (MemberView.record layout))]
  | .shipments ships tickets counter =>
    [.fixed (((Field.list (ships.map fun v => recordBytes layout .ship v.fields)).bytes (layout .body) 0)
      ++ (Field.list (tickets.map Ticket.bytes)).bytes (layout .body) 1), numTo 65535 counter]
  | .summary u conserved part => u.fields layout (some (conserved, part))
  | .identity v => v.fields
  | .time before taken => [.fixed (num32 before ++ num32 taken)]
  | .floor v => v.fields
  | .floorReset purging => [numTo 16 purging]

/-- The layout of a reply: the one of its kind; one in which a full DISPATCH-QUERY reply has room; and for a lot context record, which may
be larger than a body, the one with its numbers in their least widths (R172; assumption 2). -/
def replyLayout (kind : Byte) : ReplyBody → Layout
  | .dispatch .. => roomyDispatch (Config.layout kind)
  | .context _ => narrow (Config.layout kind)
  | _ => Config.layout kind

/-- The fields of a reply from byte 3 of its body (R188): those of a refusal, else those that its owning rule names, up to the end of
a body of 1,200 bytes, which only a lot context record passes (R172; assumption 2). -/
def Answer.fields (kind : ReplyKind) (a : Answer) : List Byte :=
  match a.status with
  | .refused _ => refusalFields a.body
  | .ok | .incomplete => (recordBytes (replyLayout kind.byte a.body) .body (a.body.fields (replyLayout kind.byte a.body))).take 1197

/-- The bytes of a reply on the host line: kind 80 hex, its request's tag and kind, its status; a busy entry is REFUSED with
QUEUE_FULL and has no further field (R172, R176, R188). -/
def ReplyEntry.frame : ReplyEntry → List Byte
  | .full tag kind a => hostFrame 0x80 tag (replyHeader kind a.status ++ a.fields kind)
  | .busy tag kind => hostFrame 0x80 tag (replyHeader kind (.refused .queueFull))

/-! ### Reports (R179, R187, R188) -/

/-- The kind byte of a report: TALLY is 92 hex and TICKET 9D hex, the others in the order of R179's table (R189, assumption 2). -/
def Report.kindByte : Report → Byte
  | .tally .. => 0x92
  | .ticket .. => 0x9D
  | .cellState .. => hostCode 46
  | .changeover .. => hostCode 47
  | .limit .. => hostCode 49
  | .holdRaised .. => hostCode 50
  | .holdCleared .. => hostCode 51
  | .stepDone .. => hostCode 52
  | .lotState .. => hostCode 53
  | .loadWant .. => hostCode 54
  | .loadDone .. => hostCode 55
  | .siteOff .. => hostCode 56
  | .maintenance .. => hostCode 57
  | .linkError .. => hostCode 58
  | .ticketWithdrawn .. => hostCode 60

/-- The place of a cause of LINK-ERROR among the eleven, and its detail: the kind byte received or dropped, the site, or the touchdown number
(R108, R110, R116). -/
def LinkErrorCause.fields (x : LinkErrorCause) : List Field :=
  .code .linkCause 11 x.ctorIdx :: match x with
    | .malformed kind | .txOverrun kind => [.fixed [kind]]
    | .siteBad site | .dupSite site => [numTo 7 site.toNat]
    | .seqGap td | .overrun td | .setupLate td | .stray td => [numTo 65535 td.toNat]
    | .wrongStation | .break | .silence => []

/-- The fields of a report, as its rule names them (R20, R28, R31, R44, R49, R58, R65, R92, R103, R108, R110, R116, R134, R167). The check of a
LIMIT report is the bin's number, or for the yield check a number that the manual does not give (assumption 2). TALLY and TICKET are
laid out by R189. -/
def Report.fields : Report → List Field
  | .cellState c old new pause fault => [numTo 15 c.val, old.field, new.field, pause.field, fault.field]
  | .changeover c lot portion wanted installed =>
    [numTo 15 c.val, textOf 16 (some lot), numTo 12 portion, textOf 8 (some wanted), textOf 8 installed]
  | .limit lot step check final portion t figure bound marking =>
    [textOf 16 (some lot), numTo 4 step, numToOpt 16 (match check with | .yield => none | .bin b => some b),
      .code .evaluation 2 (if final then 1 else 0), numTo 12 portion, numTo 65535 t, numTo 1000000 figure, numTo 1000000 bound,
      .code .marking 3 marking.ctorIdx]
  | .holdRaised lot reason step portion detail =>
    [textOf 16 (some lot), reason.field, numTo 4 step, numTo 12 portion, numTo 65535 detail]
  | .holdCleared lot reason disposition => [textOf 16 (some lot), reason.field, .code .disposition 4 disposition.ctorIdx]
  | .stepDone lot step pass finalGood => [textOf 16 (some lot), numTo 4 step, .fixed [passByte pass], numTo 65535 finalGood]
  | .lotState lot old new => [textOf 16 (some lot), old.field, new.field]
  | .loadWant c program offset length =>
    [numTo 15 c.val, textOf 16 (some program.name), numTo 65535 program.revision, imageNum (some offset), numTo 256 length]
  | .loadDone c program error counted relayed length catalogCheck relayedCheck stationCheck =>
    [numTo 15 c.val, textOf 16 (program.map (·.name)), numToOpt 65535 (program.map (·.revision)), loadErrorField error, .flags [counted],
      numTo 16777215 relayed, imageNum (some length), .number 4 4 (catalogCheck.map (·.toNat)), .number 4 4 (relayedCheck.map (·.toNat)),
      .number 4 4 (stationCheck.map (·.toNat))]
  | .siteOff c site lot portion count => [numTo 15 c.val, numTo 7 site, textOf 16 (some lot), numTo 12 portion, numTo 255 count]
  | .maintenance c counter most => [numTo 15 c.val, .fixed (num32 counter), numTo 4000000000 most]
  | .linkError c cause => numTo 15 c.val :: cause.fields
  | .ticketWithdrawn number ship cause =>
    [numTo 65535 number, textOf 16 (some ship)] ++ match cause with
      | .lotHold lot => [.code .withdrawCause 2 0, textOf 16 (some lot)]
      | .cancel => [.code .withdrawCause 2 1]
  | .tally .. | .ticket .. => []

/-- The body of a report: the header with its time and its lost count, then its fields (R188); those of TALLY and TICKET are laid
out by R189, the others have their fields in their forms of R186, under the layout of their kind
(assumption 2). -/
def QueuedReport.body (lost : Nat) (q : QueuedReport) : List Byte :=
  match q.report with
  | .tally cell lot step pass portion touchdown runGroups runTested passT counts =>
    tallyReportBody q.time lost cell lot step pass portion touchdown runGroups runTested passT counts
  | .ticket t lots => ticketReportBody q.time lost t lots
  | r => reportHeader q.time lost ++ recordBytes (Config.layout r.kindByte) .body r.fields

/-- The bytes of a report on the host line: its own kind and tag 0 (R172, R179, R187). -/
def QueuedReport.frame (lost : Nat) (q : QueuedReport) : List Byte := hostFrame q.report.kindByte 0 (q.body lost)

/-- The bytes of the frame under way on the host line, if one is (R178). -/
def HostLink.sending (h : HostLink) : Option (List Byte) :=
  match h.tx with
  | none => none
  | some .reply => h.replies.head?.map ReplyEntry.frame
  | some (.report q lost) => some (q.frame lost)

end Sys2Proof.Machine
end

