-- ==== Sys2Proof/Safety.lean ====
section
/-! DEFINITION. What claims about the 1640 are stated in: the request a command stands for, the Host Link Unit after a request is
answered, the conditions on a state that claims use, and the invariants. -/

namespace Sys2Proof.Machine

open Sys2Proof

/-! ### Requests and their answers -/

/-- The tag and the request kind of a command that is a host request (R174); none for any other command. -/
def requestOf : Instr → Option (BitVec 16 × RequestKind)
  | .productDefine tag _ => some (tag, .productDefine)
  | .productDelete tag _ => some (tag, .productDelete)
  | .productQuery tag _ => some (tag, .productQuery)
  | .limitMask tag _ _ _ _ => some (tag, .limitMask)
  | .productRevise tag _ _ _ => some (tag, .productRevise)
  | .catalogAdd tag _ _ _ _ => some (tag, .catalogAdd)
  | .catalogState tag _ _ _ => some (tag, .catalogState)
  | .catalogRemove tag _ _ => some (tag, .catalogRemove)
  | .catalogQuery tag _ => some (tag, .catalogQuery)
  | .lotRegister tag _ _ _ _ _ => some (tag, .lotRegister)
  | .lotDispose tag _ _ _ => some (tag, .lotDispose)
  | .lotHold tag _ => some (tag, .lotHold)
  | .lotPriority tag _ _ => some (tag, .lotPriority)
  | .lotQuery tag _ => some (tag, .lotQuery)
  | .lotDelete tag _ => some (tag, .lotDelete)
  | .lotExport tag _ => some (tag, .lotExport)
  | .lotImport tag _ => some (tag, .lotImport)
  | .cellConfigure tag _ _ _ _ _ _ => some (tag, .cellConfigure)
  | .cellQuery tag _ => some (tag, .cellQuery)
  | .cellPause tag _ => some (tag, .cellPause)
  | .cellResume tag _ => some (tag, .cellResume)
  | .cellDown tag _ => some (tag, .cellDown)
  | .cellUp tag _ => some (tag, .cellUp)
  | .cellClear tag _ => some (tag, .cellClear)
  | .cellSitesOn tag _ _ => some (tag, .cellSitesOn)
  | .cellContactor tag _ _ _ => some (tag, .cellContactor)
  | .dispatchQuery tag _ => some (tag, .dispatchQuery)
  | .dispatchAging tag _ => some (tag, .dispatchAging)
  | .loadData tag _ _ _ => some (tag, .loadData)
  | .cellErrReset tag _ => some (tag, .cellErrReset)
  | .tallyQuery tag _ => some (tag, .tallyQuery)
  | .baselineQuery tag _ _ => some (tag, .baselineQuery)
  | .baselineSet tag _ _ _ _ _ _ => some (tag, .baselineSet)
  | .qaResult tag _ _ => some (tag, .qaResult)
  | .shipOpen tag _ _ => some (tag, .shipOpen)
  | .shipAdd tag _ _ => some (tag, .shipAdd)
  | .shipRemove tag _ _ => some (tag, .shipRemove)
  | .shipCheck tag _ => some (tag, .shipCheck)
  | .shipAccept tag _ => some (tag, .shipAccept)
  | .shipCancel tag _ => some (tag, .shipCancel)
  | .shipQuery tag _ => some (tag, .shipQuery)
  | .summaryQuery tag _ _ => some (tag, .summaryQuery)
  | .identify tag => some (tag, .identify)
  | .setTime tag _ => some (tag, .setTime)
  | .floorStatus tag => some (tag, .floorStatus)
  | .floorReset tag => some (tag, .floorReset)
  | .unknownKind _ _ => none
  | .hostCandidateFail _ => none
  | .hostLineBreak => none
  | .hostFrameSent => none
  | .floorTimeTick => none
  | .coldReset _ _ _ => none
  | .hello _ _ _ _ _ => none
  | .kit _ _ => none
  | .purged _ _ => none
  | .soakReached _ => none
  | .status _ => none
  | .siteResult _ _ => none
  | .groupEnd _ _ => none
  | .jam _ => none
  | .jamClear _ => none
  | .runEnd _ _ _ => none
  | .blockAck _ _ => none
  | .blockNak _ _ => none
  | .imageCheck _ _ => none
  | .malformed _ _ => none
  | .cellCandidateFail _ _ => none
  | .lineBreak _ => none
  | .silence _ => none
  | .cellFrameSent _ => none
  | .intakeRecordTaken _ => none
  | .purgeTimeout _ => none
  | .soakTimeout _ => none
  | .dwellExpiry _ => none
  | .dataTimeout _ _ => none
  | .ackTimeout _ _ => none
  | .checkTimeout _ => none

/-- The state once a frame has been proved on the host line and an entry queued for it: the receiver is in step, the entry stands at
the tail of the reply queue, and the line is as the end of an event leaves it (R107, R176, R178). -/
def State.replied (e : ReplyEntry) (s : State) : State :=
  settleHost { s with host := { s.host with rx := Receiver.between, replies := s.host.replies ++ [e] } }

/-- The state once a request has been answered with a full reply. -/
def State.answered (tag : BitVec 16) (k : RequestKind) (a : Answer) (s : State) : State :=
  s.replied (.full tag (.request k) a)

/-- A request of this tag is taken: its tag is not 0 and fewer than 8 full replies wait (R174, R176). -/
abbrev State.takes (tag : BitVec 16) (s : State) : Prop := tag ≠ 0 ∧ fullReplies s.host.replies < 8

/-- The answer OK with the fields a rule names. -/
abbrev okWith (b : ReplyBody) : Answer := ⟨.ok, b⟩

/-- The answer REFUSED with a reason and no further field. -/
abbrev refusedFor (r : Reason) : Answer := ⟨.refused r, .none⟩

/-! ### Conditions on a state -/

/-- No cell is waiting for work: an offer round makes no offer (R79). -/
abbrev State.noCellWaits (s : State) : Prop := ∀ c : CellId, s.waiting.get c = false

/-- The port's receiver after a proved frame on an UP link, with the silence timer started again (R107, R113). -/
def State.heard (c : CellId) (s : State) : State :=
  modPort c (fun p => { p with rx := Receiver.between, silence := some 6 }) s

/-- A load holds no buffer of the pool: none is reserved for a want of it, and none is filled with a block of it (R87, R90, R101). -/
def State.holdsNoBuffer (s : State) (c : CellId) : Prop :=
  ∀ (b : Fin 8) (offset : Nat) (data : List Byte), s.buffers.get b ≠ .reserved c offset ∧ s.buffers.get b ≠ .filled c offset data

/-- A portion's units close: Q = T + R + L + H (R23). -/
def Portion.closes (p : Portion) : Prop := p.q = p.t + p.r + p.l + p.h

/-- The units of every portion of every lot close, and no lot has two portions of one number (R22, R23). -/
def State.unitsClose (s : State) : Prop :=
  ∀ x l, s.lot x = some l → (l.portions.map (·.number)).Nodup ∧ ∀ p ∈ l.portions, p.closes

/-- What proceeding from STEP-HELD leaves of a lot (R27, R124): `l` is its record, with an empty hold list, `p` its product, `good` the
final good of its step, `s` the state before and `t` the state after. That a RELEASED shipment would lose its member in NO-YIELD as
another does is the model's choice (R163; assumption 51). -/
def State.proceeded (x : LotSlot) (l : Lot) (p : Product) (good : Nat) (s t : State) : Prop :=
  t.tally x = LotStepRec.empty ∧ t.checkMark x = false
  ∧ (good = 0 → t.lot x = some { l with state := .noYield } ∧ t.waitList = s.waitList.filter (fun e => e.lot ≠ x)
    ∧ t.product l.product = some { p with live := p.live - 1 }
    ∧ ∀ k h, s.shipOf x = some k → s.ship k = some h →
      t.ship k = some { h with state := .open, progress := 0, members := h.members.filter fun m => m ≠ x })
  ∧ (0 < good → l.stepIndex < p.steps.length → t.hasEntry x
    ∧ t.lot x = some { l with
        stepIndex := l.stepIndex + 1, route := .stepOpen, retest := false, state := .waiting, stepReady := s.floorTime
        portions := newPortions 1 (portionSizes l.split 8 good) })
  ∧ (0 < good → p.steps.length ≤ l.stepIndex → 0 < p.qaSample → t.lot x = some { l with route := .qaSample, state := .qaWait })
  ∧ (0 < good → p.steps.length ≤ l.stepIndex → p.qaSample = 0 →
    t.lot x = some { l with route := .routeEnd, state := if s.inReleased x then .released else .complete })

/-! ### Invariants -/

/-- The bounds of the Host Link Unit's queues and counts (R173, R176, R179): at most 8 full replies and at most 8 busy entries, so
at most 16 entries in the reply queue. -/
def HostLink.bounded (h : HostLink) : Prop :=
  fullReplies h.replies ≤ 8 ∧ h.replies.length ≤ fullReplies h.replies + 8 ∧ h.reports.length ≤ 64 ∧ h.lostReports ≤ 255 ∧ h.lostRequests ≤ 255
    ∧ h.rxErrors ≤ 255

/-- The ticket queue and counter are as R165 says: at most 8 tickets, no number held twice, every number from 1 to 65,535, and the
counter at such a number that no ticket holds. -/
def State.ticketsSound (s : State) : Prop :=
  s.tickets.length ≤ 8 ∧ (s.tickets.map (·.number)).Nodup ∧ (∀ t ∈ s.tickets, 1 ≤ t.number ∧ t.number ≤ 65535)
    ∧ 1 ≤ s.ticketCounter ∧ s.ticketCounter ≤ 65535 ∧ ∀ t ∈ s.tickets, t.number ≠ s.ticketCounter

/-- The catalog holds at most 32 entries, no name and revision twice, every field in its range (R12). -/
def State.catalogSound (s : State) : Prop :=
  s.catalog.length ≤ 32 ∧ (s.catalog.map fun e => (e.name, e.revision)).Nodup
    ∧ ∀ e ∈ s.catalog, validName e.name ∧ validRevision e.revision ∧ within 1 16777215 e.length

/-- Every step summary is kept under its step index (R155). -/
def State.summariesPlaced (s : State) : Prop := ∀ x k u, s.summary x k = some u → u.step = k

/-- The aging limit, floor time and the registration counter are in their ranges (R19, R85, R180). -/
def State.countersInRange (s : State) : Prop :=
  1 ≤ s.agingLimit ∧ s.agingLimit ≤ 15 ∧ s.floorTime ≤ top32 ∧ s.regCounter ≤ top32

/-- A cell port's queues are within their bounds: the transmit list, the intake queue, the group being assembled, and a last
group count no smaller than the results kept (R110, R111, R114). -/
def Port.bounded (p : Port) : Prop :=
  p.txList.length ≤ 32 ∧ p.queue.length ≤ 16 ∧ p.group.length ≤ 8 ∧ p.group.length ≤ p.groupCount

/-- Every cell port is within its bounds. -/
def State.portsBounded (s : State) : Prop := ∀ c : CellId, (s.port c).bounded

end Sys2Proof.Machine
end

