-- ==== Sys2Proof/Certificates/Slice0/Obligations.lean ====
section
/-! DEFINITION. The statements about the 1640 that the provers prove, each under the name OBLIGATIONS.json gives it. -/

open Sys2Proof Sys2Proof.Machine

/-! ### The queue of commands and the host line -/

/-- A step takes the command at the front of the queue and carries it out on the state with the queue's rest; with no command
waiting the block idles (assumption 7). -/
def Obligations.StepTakesTheFrontCommand : Prop :=
  (∀ (c : Instr) (rest : List Instr) (s : State), s.pending = c :: rest → step s = exec c { s with pending := rest })
  ∧ ∀ s : State, s.pending = [] → step s = .next s

/-- Every command is carried out in every state: no event of the part is refused or stops it (R175: each event is taken whole). That
the commands that still wait stay as they are, after a cold reset too, is the model's choice: the queue of commands is the model's own,
and no part of what a reset clears (assumption 7). -/
def Obligations.EveryCommandLeavesTheQueue : Prop :=
  ∀ (i : Instr) (s : State), ∃ t, exec i s = .next t ∧ t.pending = s.pending

/-- The three rows of R176's table, for every request kind: below 8 full replies the request is taken and its reply joins the
tail; with 8 it gets a busy entry and nothing else changes; with 16 entries it is discarded and counted. -/
def Obligations.RequestsMeetTheReplyQueue : Prop :=
  ∀ (i : Instr) (tag : BitVec 16) (k : RequestKind) (s : State), requestOf i = some (tag, k) →
    (fullReplies s.host.replies < 8 →
      ∃ t a, exec i s = .next t ∧ t.host.replies = s.host.replies ++ [.full tag (.request k) a])
    ∧ (8 ≤ fullReplies s.host.replies → s.host.replies.length < 16 →
      exec i s = .next (s.replied (.busy tag (.request k))))
    ∧ (8 ≤ fullReplies s.host.replies → 16 ≤ s.host.replies.length →
      exec i s = .next (settleHost { s with host := { s.host with
        rx := Receiver.between
        lostRequests := satInc 255 s.host.lostRequests } }))

/-- What the Host Link Unit refuses itself (R174): a kind byte that is no request kind, a body of the wrong form, a tag of 0, and a
fixed text field whose pad holds an unused bit (R186), here of every request with a text field of its own; that of a PRODUCT-DEFINE or a
context record is O16's and O27's. The reply carries the tag and the kind, and no block sees the frame. Where the field reads as a
text, of these requests too, its pad is no part of it: the request acts as with the characters alone (R186). -/
def Obligations.HostLinkUnitRefusals : Prop :=
  (∀ (tag : BitVec 16) (b : Byte) (s : State), fullReplies s.host.replies < 8 →
    exec (.unknownKind tag (.unknownKind b)) s
      = .next (s.replied (.full tag (.other b) (refusedFor .unknownKind))))
  ∧ (∀ (tag : BitVec 16) (k : RequestKind) (s : State), fullReplies s.host.replies < 8 →
    exec (.unknownKind tag (.badForm k)) s = .next (s.answered tag k (refusedFor .badField)))
  ∧ (∀ (i : Instr) (k : RequestKind) (s : State), requestOf i = some (0, k) → fullReplies s.host.replies < 8 →
    exec i s = .next (s.answered 0 k (refusedFor .badField)))
  ∧ (∀ (i : Instr) (tag : BitVec 16) (k : RequestKind) (s : State) (f g : Text) (a b c d e : Nat) (check : CheckSel) (m : Byte)
      (crc : BitVec 32) (st : Option CatState) (reason : Option HoldReason) (disposition : Option Disposition) (qa : Option QaOutcome),
    requestOf i = some (tag, k) → s.takes tag → readFixedText f = .unusedBit →
    i ∈ [.productDelete tag f, .productQuery tag f, .limitMask tag f a check m, .productRevise tag f a b] ∨
      i ∈ [.catalogAdd tag f a b crc, .catalogState tag f a st, .catalogRemove tag f a, .catalogQuery tag (some ⟨f, a⟩)] ∨
      i ∈ [.lotRegister tag f g a b c, .lotRegister tag g f a b c, .lotDispose tag f reason disposition, .lotHold tag f] ∨
      i ∈ [.lotPriority tag f a, .lotQuery tag f, .lotDelete tag f, .lotExport tag f, .cellConfigure tag a f b c d e] ∨
      i ∈ [.tallyQuery tag f, .baselineQuery tag f a, .baselineSet tag f a b c d e, .qaResult tag f qa, .summaryQuery tag f a] ∨
      i ∈ [.shipOpen tag f g, .shipOpen tag g f, .shipAdd tag f g, .shipAdd tag g f, .shipRemove tag f g, .shipRemove tag g f,
        .shipCheck tag f, .shipCancel tag f, .shipQuery tag (some f)] →
    exec i s = .next (s.answered tag k (refusedFor .badField)))
  ∧ ∀ (request : Text → Instr) (tag : BitVec 16) (s : State) (f g h : Text) (a b c d e : Nat) (check : CheckSel) (m : Byte)
      (crc : BitVec 32) (st : Option CatState) (reason : Option HoldReason) (disposition : Option Disposition) (qa : Option QaOutcome),
    readFixedText f = .value g →
    request ∈ [.productDelete tag, .productQuery tag, (.limitMask tag · a check m), (.productRevise tag · a b)] ∨
      request ∈ [(.catalogAdd tag · a b crc), (.catalogState tag · a st), (.catalogRemove tag · a),
        fun text => .catalogQuery tag (some ⟨text, a⟩)] ∨
      request ∈ [(.lotRegister tag · h a b c), (.lotRegister tag h · a b c), (.lotDispose tag · reason disposition), .lotHold tag] ∨
      request ∈ [(.lotPriority tag · a), .lotQuery tag, .lotDelete tag, .lotExport tag, (.cellConfigure tag a · b c d e)] ∨
      request ∈ [.tallyQuery tag, (.baselineQuery tag · a), (.baselineSet tag · a b c d e), (.qaResult tag · qa), (.summaryQuery tag · a)] ∨
      request ∈ [(.shipOpen tag · h), .shipOpen tag h, (.shipAdd tag · h), .shipAdd tag h, (.shipRemove tag · h), .shipRemove tag h,
        .shipCheck tag, .shipCancel tag, fun text => .shipQuery tag (some text)] →
    exec (request f) s = exec (request g) s

/-- A request that its owner refuses changes nothing but the Host Link Unit's reply queue, its receiver and its line (R174).
SHIP-CHECK is left out: its failure invalidates the shipment (R164). -/
def Obligations.RefusedRequestsChangeNothing : Prop :=
  ∀ (i : Instr) (tag : BitVec 16) (k : RequestKind) (s t : State) (r : Reason) (b : ReplyBody),
    requestOf i = some (tag, k) → k ≠ .shipCheck → s.takes tag → exec i s = .next t →
    t.host.replies = s.host.replies ++ [.full tag (.request k) ⟨.refused r, b⟩] →
    t = s.answered tag k ⟨.refused r, b⟩

/-- At the end of a frame the transmitter takes the head of the reply queue, else the head of the report queue with the
lost-report count, which becomes 0, else nothing; a reply that has been sent leaves its queue (R176, R178, R179). A report leaves the
report queue when its first byte has been sent: within the event that began it or later, but before the frame ends (R179, R185); which
of the two is a free value (assumption 33). With no frame under way the line takes what is ready at the end of the event, and so after
every event but a cold reset an idle line has nothing ready; a frame under way stays (assumption 5). A report joins the tail of the report queue with the floor time; with 64 reports waiting it is dropped and the
lost-report count rises, saturating at 255 (R179). -/
def Obligations.TransmitterTakesRepliesFirst : Prop :=
  (∀ (s : State) (rest : List ReplyEntry) (queue : List QueuedReport),
    rest = (if s.host.tx = some .reply then s.host.replies.tail else s.host.replies) →
    queue = (if s.host.headHeld then s.host.reports.tail else s.host.reports) →
    (rest ≠ [] → exec .hostFrameSent s = .next { s with host := { s.host with
      replies := rest, reports := queue, headHeld := false, tx := some .reply } })
    ∧ (∀ (r : QueuedReport) (rs : List QueuedReport) (begun : List QueuedReport → Bool → State), rest = [] → queue = r :: rs →
      begun = (fun reports held => { s with
        host := { s.host with
          replies := [], reports := reports, headHeld := held, lostReports := 0, tx := some (.report r s.host.lostReports) }
        freeTick := s.freeTick + 1 }) →
      exec .hostFrameSent s = .next (begun rs false) ∨ exec .hostFrameSent s = .next (begun (r :: rs) true))
    ∧ (rest = [] → queue = [] → exec .hostFrameSent s = .next { s with host := { s.host with
        replies := [], reports := [], headHeld := false, tx := none } }))
  ∧ (∀ s : State,
    (s.host.tx = none → s.host.headHeld = false →
      (s.host.replies ≠ [] → settleHost s = { s with host := { s.host with tx := some .reply } })
      ∧ (∀ r rs u, s.host.replies = [] → s.host.reports = r :: rs →
        u = { s with
          host := { s.host with headHeld := true, lostReports := 0, tx := some (.report r s.host.lostReports) }
          freeTick := s.freeTick + 1 } →
        settleHost s = u ∨ settleHost s = { u with host := { u.host with reports := rs, headHeld := false } })
      ∧ (s.host.replies = [] → s.host.reports = [] → settleHost s = s))
    ∧ (s.host.tx ≠ none → s.host.headHeld = false → settleHost s = s)
    ∧ (s.host.tx ≠ none → s.host.headHeld → ∀ u, u = { s with freeTick := s.freeTick + 1 } →
      settleHost s = u ∨ settleHost s = { u with host := { u.host with reports := u.host.reports.tail, headHeld := false } }))
  ∧ (∀ (i : Instr) (s t : State), (∀ cause a b, i ≠ .coldReset cause a b) → exec i s = .next t → t.host.tx = none →
    t.host.replies = [] ∧ t.host.reports = [])
  ∧ ∀ (s : State) (r : Report),
    (s.host.reports.length < 64 →
      raise r s = { s with host := { s.host with reports := s.host.reports ++ [⟨s.floorTime, r⟩] } })
    ∧ (64 ≤ s.host.reports.length →
      raise r s = { s with host := { s.host with lostReports := satInc 255 s.host.lostReports } })

/-- A break on the host line raises the receive error count, saturating at 255, and sends the receiver hunting, and so does every
candidate that fails; the bytes after its sync byte are scanned again (R173). The table's command carries bytes as they arrive, and
this is how the receiver takes them, one after another, which is the model's choice (assumption 21): they follow those of an open
candidate; a byte that is no sync byte sends the receiver hunting; a sync byte opens a candidate, which stays open while more bytes
are needed; at a proved frame, which is a command of its own, the bytes end and the receiver is in step. -/
def Obligations.HostLineErrors : Prop :=
  ∀ (s : State) (line : Receiver → Nat → State),
    line = (fun rx errors => { s with host := { s.host with rx := rx, rxErrors := errors } }) →
    exec .hostLineBreak s = .next (settleHost (line ⟨false, none⟩ (satInc 255 s.host.rxErrors)))
    ∧ (∀ cs bytes, s.host.rx.candidate = some cs → exec (.hostCandidateFail bytes) s
        = exec (.hostCandidateFail (0xA5 :: (cs ++ bytes))) (line ⟨s.host.rx.inStep, none⟩ s.host.rxErrors))
    ∧ (s.host.rx.candidate = none →
      exec (.hostCandidateFail []) s = .next (settleHost s)
      ∧ ∀ bytes : List Byte,
        (∀ b, b ≠ 0xA5 → exec (.hostCandidateFail (b :: bytes)) s
          = exec (.hostCandidateFail bytes) (line ⟨false, none⟩ s.host.rxErrors))
        ∧ (judgeHost bytes = .incomplete → exec (.hostCandidateFail (0xA5 :: bytes)) s
          = .next (settleHost (line ⟨s.host.rx.inStep, some bytes⟩ s.host.rxErrors)))
        ∧ (judgeHost bytes = .failed → exec (.hostCandidateFail (0xA5 :: bytes)) s
          = exec (.hostCandidateFail bytes) (line ⟨false, none⟩ (satInc 255 s.host.rxErrors)))
        ∧ ∀ inner rest, judgeHost bytes = .proved inner rest → exec (.hostCandidateFail (0xA5 :: bytes)) s
          = .next (settleHost (line Receiver.between s.host.rxErrors)))

/-- The Floor Clock (R180): a second's end raises floor time by one, saturating at 4,294,967,295; SET-TIME gives it a value,
starts a new second, and is answered with the time before and the time taken. No timer and no stamp moves: nothing else
changes. -/
def Obligations.FloorClock : Prop :=
  (∀ s : State, exec .floorTimeTick s = .next (settleHost { s with
    floorTime := if s.floorTime < 4294967295 then s.floorTime + 1 else s.floorTime, secondPhase := 0 }))
  ∧ ∀ (tag : BitVec 16) (time : BitVec 32) (s : State), s.takes tag →
    exec (.setTime tag time) s = .next (State.answered tag .setTime (okWith (.time s.floorTime time.toNat))
      { s with floorTime := time.toNat, secondPhase := 0 })

/-- IDENTIFY is answered with the part's family code, revision, line speed, capacities and floor time, and changes nothing
(R181). -/
def Obligations.IdentifyAnswersTheCapacities : Prop :=
  ∀ (tag : BitVec 16) (s : State), s.takes tag →
    exec (.identify tag) s = .next (s.answered tag .identify (okWith (.identity
      { family := 0x1640, revision := 1, speed := s.host.speed, cells := 16, products := 16, routeSteps := 4, monitored := 4,
        catalog := 32, lots := 128, waitList := 128, buffers := 8, bufferSize := 256, shipments := 8, members := 16, tickets := 8,
        reports := 64, replies := 16, fullReplies := 8, time := s.floorTime })))

/-- FLOOR-STATUS answers the counts and sets the lost-request and receive error counts to 0, and nothing else changes (R182). The
counts of the lot states with the free slots number 128, those of the product slots 16, those of the cells 16. -/
def Obligations.FloorStatusCountsEverything : Prop :=
  ∀ (tag : BitVec 16) (s : State), s.takes tag →
    exec (.floorStatus tag) s = .next (State.answered tag .floorStatus (okWith (.floor (floorView s)))
      { s with host := { s.host with lostRequests := 0, rxErrors := 0 } })
    ∧ (floorView s).lostRequests = s.host.lostRequests ∧ (floorView s).rxErrors = s.host.rxErrors
    ∧ ((floorView s).lots.map (·.2)).sum + (floorView s).freeLots = 128
    ∧ (floorView s).productsFree + (floorView s).productsDefined + (floorView s).productsInUse = 16
    ∧ (floorView s).unconfigured + ((floorView s).cells.map (·.2)).sum = 16

/-- FLOOR-RESET (R183): lots, wait list, waiting-cell set, shipments and tickets are gone, the buffer pool is free; definitions,
the long-lived counters and floor time are kept; every cell loses its work, every online cell is PURGING with its purge timer at
600 s and every other cell keeps its state. The reply counts the cells sent to PURGING. -/
def Obligations.FloorResetEmptiesTheFloor : Prop :=
  ∀ (tag : BitVec 16) (s : State), s.takes tag →
    ∃ t, exec (.floorReset tag) s = .next t
    ∧ t.host.replies = s.host.replies ++ [.full tag (.request .floorReset) (okWith (.floorReset (countOf Cell.online s.cells.toList)))]
    ∧ (∀ x, t.lot x = none ∧ t.tally x = LotStepRec.empty ∧ t.checkMark x = false ∧ t.summaryList x = [])
    ∧ t.waitList = [] ∧ t.noCellWaits ∧ t.pointer = 0
    ∧ (∀ k, t.ship k = none) ∧ t.tickets = []
    ∧ (∀ b : Fin 8, t.buffers.get b = .free) ∧ t.grantPointer = 15 ∧ (∀ c : CellId, t.bufferWaiting.get c = false ∧ t.runGroups.get c = 0)
    ∧ (∀ i, t.product i = (s.product i).map fun p => { p with live := 0 })
    ∧ t.catalog = s.catalog ∧ t.baselines = s.baselines ∧ t.agingLimit = s.agingLimit ∧ t.regCounter = s.regCounter
    ∧ t.ticketCounter = s.ticketCounter ∧ t.floorTime = s.floorTime
    ∧ ∀ c, (t.cell c).state = (if (s.cell c).online then .purging else (s.cell c).state)
      ∧ (t.cell c).purgeTimer = (if (s.cell c).online then some 600 else none)
      ∧ (t.cell c).current = none ∧ (t.cell c).pendingSlot = none ∧ (t.cell c).program = none
      ∧ (t.cell c).pause = PauseSet.empty ∧ (t.cell c).runStarted = false ∧ (t.cell c).runTested = 0
      ∧ (t.cell c).stationName = (s.cell c).stationName ∧ (t.cell c).siteOff = (s.cell c).siteOff
      ∧ (t.cell c).lifetime = (s.cell c).lifetime ∧ (t.cell c).contactorLimit = (s.cell c).contactorLimit
      ∧ (t.cell c).tallyInterval = (s.cell c).tallyInterval

/-- Cold reset (R171, R184, R190): power-on, and RESET_N low for 10 µs or more, leave the machine of State.reset at the strapped
line speed; a pulse below 1 µs is ignored; one between does one or the other. The commands still to come, and the model's count of
free values, are not the part's state (assumptions 1, 4 and 7). -/
def Obligations.ColdResetRestoresTheResetValues : Prop :=
  ∀ (s : State) (a b : Bool), ∀ t : State,
    t = { State.reset with
      pending := s.pending
      freeTick := s.freeTick
      host := HostLink.reset (match a, b with
        | false, false => 115200 | false, true => 460800 | true, false => 921600 | true, true => 2000000) } →
    exec (.coldReset .powerOn a b) s = .next t
    ∧ (∀ ns, 10000 ≤ ns → exec (.coldReset (.resetPin ns) a b) s = .next t)
    ∧ (∀ ns, ns < 1000 → exec (.coldReset (.resetPin ns) a b) s = .next s)
    ∧ ∀ ns, 1000 ≤ ns → ns < 10000 →
      exec (.coldReset (.resetPin ns) a b) s = .next { t with freeTick := s.freeTick + 1 }
      ∨ exec (.coldReset (.resetPin ns) a b) s = .next { s with freeTick := s.freeTick + 1 }

/-- The query requests are answered from the records as they stand and change nothing (R8, R38, R68, R84, R141, R152, R159, R168): each is
answered OK, with the figures its rule names, whenever what it names is there. The texts here are fields without a pad; with one they are
O4's. That TALLY-QUERY answers class EMPTY without figures for a lot whose step its product no longer has is the model's choice
(assumptions 43 and 44), and so is that part 7 of the conservation relation fails for a summary whose earlier step has none (assumption
41), and that part 8 counts an imported revision as often as the summary holds it (assumption 42). The order of a reply's lists where the
rule names a set or a group is the model's choice too: waiting cells in ascending cell number, blocks in flight in the order relayed,
portions in ascending number, monitored entries in the order of the step's list (assumption 49); and so is that DISPATCH-QUERY counts an
entry of a free slot and does not show it (assumption 48). A summary conserves when each of R159's eight parts holds, and else the first
part that fails is told. -/
def Obligations.QueriesAnswerAndChangeNothing : Prop :=
  (∀ (tag : BitVec 16) (s : State), s.takes tag →
    (∀ code i p, validCode code → s.findProduct code = some i → s.product i = some p →
      exec (.productQuery tag code) s
        = .next (s.answered tag .productQuery (okWith (.productState i (0 < p.live) p.live ⟨p.code, p.steps, p.qaSample⟩))))
    ∧ (∀ id x l, validName id → s.findLot id = some x → s.lot x = some l →
      exec (.lotQuery tag id) s = .next (s.answered tag .lotQuery (okWith (.lot l (s.shipIdOf x))))
      ∧ exec (.tallyQuery tag id) s = .next (s.answered tag .tallyQuery (okWith (.tally (tallyView s x l))))
      ∧ ∀ step u, 1 ≤ step → step ≤ 4 → s.summary x step = some u →
        exec (.summaryQuery tag id step) s
          = .next (s.answered tag .summaryQuery (okWith (.summary u (conserves s x l u) (firstFailing (conservation s x l u))))))
    ∧ (∀ (c : CellId) (v : CellView), v = cellView s c →
      exec (.cellQuery tag c.val) s = .next (s.answered tag .cellQuery (okWith (.cell v)))
      ∧ v.cell = s.cell c ∧ v.enabled = (s.cell c).enabled ∧ v.flags = (s.port c).flags ∧ v.queued = (s.port c).queue.length
      ∧ v.current = (s.cell c).current.map (fun ref => ⟨(s.lot ref.lot).map (·.id), ref.portion⟩)
      ∧ v.pendingSlot = (s.cell c).pendingSlot.map (fun ref => ⟨(s.lot ref.lot).map (·.id), ref.portion⟩)
      ∧ v.currentH = ((s.cell c).current.bind fun ref => (s.lot ref.lot).bind fun l => (l.portion ref.portion).map (·.h))
      ∧ v.inStep = (s.port c).rx.inStep ∧ v.runOpen = (s.port c).runOpen ∧ v.runEndHeld = (s.port c).heldRunEnd.isSome
      ∧ v.resultCheck = (s.port c).resultCheck ∧ v.lastTouchdown = (s.port c).lastTouchdown
      ∧ v.load = (if (s.cell c).state = .loading then some (s.load c) else none))
    ∧ (∀ start, start ≤ 127 →
      exec (.dispatchQuery tag start) s = .next (s.answered tag .dispatchQuery (okWith (.dispatch s.agingLimit s.pointer
        (waitingKinds s) s.waitList.length (((s.waitList.drop start).take 32).filterMap (entryView s))))))
    ∧ (∀ code step i p, validCode code → step ≤ p.steps.length → step ≤ 4 → s.findProduct code = some i → s.product i = some p →
      exec (.baselineQuery tag code step) s
        = .next (s.answered tag .baselineQuery (okWith (.baselines i ((stepsNamed p step).flatMap (baselineRows s i p))))))
    ∧ (∀ id k h, validName id → s.findShip id = some k → s.ship k = some h →
      exec (.shipQuery tag (some id)) s = .next (s.answered tag .shipQuery (okWith (.shipment (shipView s k h) (memberViews s h)))))
    ∧ exec (.shipQuery tag none) s = .next (s.answered tag .shipQuery (okWith (.shipments
        ((List.finRange 8).filterMap fun k => (s.ship k).map (shipView s k)) s.tickets s.ticketCounter))))
  ∧ ∀ (s : State) (x : LotSlot) (l : Lot) (u : Summary) (fails : Nat → Prop),
    fails = (fun n => n = 1 ∧ ¬ (u.firstT = u.firstCounts.sum ∧ u.retestT = u.retestCounts.sum)
      ∨ n = 2 ∧ u.firstT + u.firstL ≠ u.qs
      ∨ n = 3 ∧ u.retestIncluded = false ∧ ¬ (u.rq = 0 ∧ u.retestT = 0 ∧ u.retestL = 0)
      ∨ n = 4 ∧ u.retestIncluded ∧ ¬ (1 ≤ u.rq ∧ u.retestT + u.retestL = u.rq
        ∧ u.rq = ((List.range 16).map fun k => if BinSet.has u.retestBins (k + 1) then u.firstCounts.bin (k + 1) else 0).sum)
      ∨ n = 5 ∧ u.finalCounts.sum + u.firstL + u.retestL ≠ u.qs
      ∨ n = 6 ∧ ¬ (u.finalGood = u.finalCounts.bin 1 ∧ u.finalGood ≤ u.qs)
      ∨ n = 7 ∧ ¬ (if u.step = 1 then u.qs = l.startQty else ∃ v, s.summary x (u.step - 1) = some v ∧ u.qs = v.finalGood)
      ∨ n = 8 ∧ ¬ (1 ≤ u.revisions.length ∧ u.revisions.length ≤ 4)) →
    (conserves s x l u = true ↔ ∀ n, ¬ fails n) ∧ (firstFailing (conservation s x l u) = none ↔ ∀ n, ¬ fails n)
    ∧ ∀ n, firstFailing (conservation s x l u) = some n ↔ fails n ∧ ∀ i, i < n → ¬ fails i

/-! ### Floor Records Store -/

/-- CATALOG-QUERY naming an entry is refused NOT_FOUND when the entry is not held and else answered with its fields and state;
naming none it is answered with every entry, oldest first, and their count (R16). The name is the characters of its field; a field with
an unused bit does not come to R16 (O4). -/
def Obligations.CatalogQueryAnswersEntries : Prop :=
  ∀ (tag : BitVec 16) (s : State), s.takes tag →
    (∀ (v : ProgramRev) (name : Text), readFixedText v.name ≠ .unusedBit → name = v.name.takeWhile (· ≠ 0) →
      (s.entry name v.revision = none →
        exec (.catalogQuery tag (some v)) s = .next (s.answered tag .catalogQuery (refusedFor .notFound)))
      ∧ ∀ e, s.entry name v.revision = some e →
        exec (.catalogQuery tag (some v)) s = .next (s.answered tag .catalogQuery (okWith (.entry e)))
        ∧ e.name = name ∧ e.revision = v.revision)
    ∧ exec (.catalogQuery tag none) s = .next (s.answered tag .catalogQuery (okWith (.entries s.catalog.length s.catalog)))

/-- A definition is stored only with every refusing field in its range, and it is stored as the request gives it but for the soak
timeout, the dwell and each K, which are taken to the nearest end of their ranges (R2, R3, R4). Texts, classes and masks are read from
their fields as R186 gives their forms: a text's characters, a pad that is all 00 hex, 0 to 2 for COLD, ROOM and HOT, 0 and 1 for
UNMASKED and MASKED. And every request with each such field in its range is taken, whatever its soak timeouts, dwells and Ks. -/
def Obligations.StoredDefinitionsAreInRange : Prop :=
  (∀ (req : ProductReq) (p : Product), takeProduct req = some p →
    readFixedText req.code = .value p.code ∧ validCode p.code ∧ p.qaSample = req.qaSample ∧ p.qaSample ≤ 500 ∧ p.live = 0
    ∧ p.steps.length = req.routeLength ∧ p.steps.length = req.steps.length ∧ 1 ≤ p.steps.length ∧ p.steps.length ≤ 4
    ∧ (∀ st ∈ p.steps, validName st.program ∧ 1 ≤ st.revision ∧ st.revision ≤ 65535 ∧ validKit st.kit
      ∧ (st.minSites = 1 ∨ st.minSites = 2 ∨ st.minSites = 4 ∨ st.minSites = 8)
      ∧ 60 ≤ st.soakTimeout ∧ st.soakTimeout ≤ 7200 ∧ st.dwell ≤ 1800 ∧ ¬ BinSet.has st.retestBins 1
      ∧ st.limits.yieldFloor ≤ 1000000 ∧ 1 ≤ st.limits.minSample ∧ st.limits.minSample ≤ 65535
      ∧ (st.limits.consecFail = 0 ∨ (2 ≤ st.limits.consecFail ∧ st.limits.consecFail ≤ 255))
      ∧ st.limits.entries.length ≤ 4 ∧ (st.limits.entries.map (·.bin)).Nodup
      ∧ ∀ e ∈ st.limits.entries, 2 ≤ e.bin ∧ e.bin ≤ 16 ∧ e.floor ≤ e.ceiling ∧ e.ceiling ≤ 1000000 ∧ 4 ≤ e.k ∧ e.k ≤ 32)
    ∧ ∀ (k : Nat) (r : StepReq) (st : StepRec), req.steps[k]? = some r → p.steps[k]? = some st →
      tempClassOfByte r.tempClass = some st.tempClass ∧ readFixedText r.program = .value st.program ∧ st.revision = r.revision
      ∧ readFixedText r.kit = .value st.kit ∧ st.minSites = r.minSites
      ∧ st.soakTimeout = max 60 (min 7200 r.soakTimeout) ∧ st.dwell = min 1800 r.dwell ∧ st.retestBins = r.retestBins
      ∧ st.limits.yieldFloor = r.yieldFloor ∧ maskOfByte r.yieldMask = some st.limits.yieldMask ∧ st.limits.minSample = r.minSample
      ∧ st.limits.consecFail = r.consecFail ∧ st.limits.entries.length = r.entries.length
      ∧ ∀ (j : Nat) (a : MonEntryReq) (e : MonEntry), r.entries[j]? = some a → st.limits.entries[j]? = some e →
        e.bin = a.bin ∧ e.ceiling = a.ceiling ∧ e.floor = a.floor ∧ a.mode = some e.mode ∧ maskOfByte a.mask = some e.mask
        ∧ e.k = max 4 (min 32 a.k))
  ∧ ∀ (req : ProductReq) (code : Text), readFixedText req.code = .value code → validCode code → 1 ≤ req.routeLength →
    req.routeLength ≤ 4 → req.steps.length = req.routeLength → req.qaSample ≤ 500 →
    (∀ r ∈ req.steps, (∃ program kit, readFixedText r.program = .value program ∧ validName program ∧ readFixedText r.kit = .value kit
        ∧ validKit kit)
      ∧ r.tempClass.toNat ≤ 2 ∧ 1 ≤ r.revision ∧ r.revision ≤ 65535
      ∧ (r.minSites = 1 ∨ r.minSites = 2 ∨ r.minSites = 4 ∨ r.minSites = 8) ∧ ¬ BinSet.has r.retestBins 1
      ∧ r.yieldFloor ≤ 1000000 ∧ r.yieldMask.toNat ≤ 1 ∧ 1 ≤ r.minSample ∧ r.minSample ≤ 65535
      ∧ (r.consecFail = 0 ∨ (2 ≤ r.consecFail ∧ r.consecFail ≤ 255))
      ∧ r.entries.length ≤ 4 ∧ (r.entries.map (·.bin)).Nodup
      ∧ ∀ e ∈ r.entries, 2 ≤ e.bin ∧ e.bin ≤ 16 ∧ e.floor ≤ e.ceiling ∧ e.ceiling ≤ 1000000 ∧ e.mode.isSome ∧ e.mask.toNat ≤ 1) →
    ∃ p, takeProduct req = some p ∧ p.code = code

/-- PRODUCT-DEFINE for a code no product has takes the lowest FREE slot with every baseline of the slot at n = 0 (R5); for a
DEFINED product it replaces the record, keeps the baseline of each step and bin that both records monitor and resets those only
one of them monitors (R6), and the lot step record of a lot of the product, of which only ended ones can be there, keeps no flag
of a bin its step no longer monitors (R123). PRODUCT-DELETE of a product with no live lot, no lot and no shipment frees the slot and resets its
baselines (R7). -/
def Obligations.ProductsAreDefinedAndDeleted : Prop :=
  ∀ (tag : BitVec 16) (s : State), s.takes tag →
    (∀ req p i, takeProduct req = some p → s.findProduct p.code = none → s.freeProduct = some i →
      exec (.productDefine tag req) s = .next (State.answered tag .productDefine (okWith (.product i ⟨p.code, p.steps, p.qaSample⟩))
        { s with
          products := s.products.set i.val (some p) i.isLt
          baselines := s.baselines.set i.val (Vector.replicate 60 Baseline.zero) i.isLt }))
    ∧ (∀ req p i old, takeProduct req = some p → s.findProduct p.code = some i → s.product i = some old → old.live = 0 →
      ∃ bs ts, exec (.productDefine tag req) s = .next (State.answered tag .productDefine (okWith (.product i ⟨p.code, p.steps, p.qaSample⟩))
          { s with products := s.products.set i.val (some p) i.isLt, baselines := bs, tallies := ts })
        ∧ (∀ x, (∀ l, s.lot x = some l → l.product ≠ i) → ts.get x = s.tally x)
        ∧ (∀ x l, s.lot x = some l → l.product = i →
          ts.get x = { s.tally x with binFlags := (ts.get x).binFlags }
          ∧ ∀ bin, 1 ≤ bin → bin ≤ 16 →
            (ts.get x).flag (.bin bin) = if p.monitors l.stepIndex bin then (s.tally x).flag (.bin bin) else none)
        ∧ (∀ j, j ≠ i → bs.get j = s.baselines.get j)
        ∧ ∀ step bin, 1 ≤ step → step ≤ 4 → 2 ≤ bin → bin ≤ 16 →
          State.baseline { s with baselines := bs } i step bin
            = if old.monitors step bin = p.monitors step bin then s.baseline i step bin else Baseline.zero)
    ∧ (∀ req p i old, takeProduct req = some p → s.findProduct p.code = some i → s.product i = some old → 0 < old.live →
      exec (.productDefine tag req) s = .next (s.answered tag .productDefine (refusedFor .inUse)))
    ∧ ∀ code i p, validCode code → s.findProduct code = some i → s.product i = some p → p.live = 0 → (∀ x l, s.lot x = some l → l.product ≠ i) →
      (∀ k h, s.ship k = some h → h.product ≠ i) →
      exec (.productDelete tag code) s = .next (State.answered tag .productDelete (okWith .none)
        { s with
          products := s.products.set i.val none i.isLt
          baselines := s.baselines.set i.val (Vector.replicate 60 Baseline.zero) i.isLt })

/-- LIMIT-MASK stores the mask of the check and no other field of any definition changes; unless the mask goes from MASKED to
UNMASKED nothing else at all changes (R9). From MASKED to UNMASKED every lot at the step whose flag for the check is set and not waived
gains a YIELD or BINLIMIT hold, with the portion the flag stored, or an occurrence in the record of that reason; a first hold pauses the
cells of its portions; a clear flag, a waived check, another product, step or route position and a state set directly hand none, and no
flag and no waiver changes (R28, R139; here where no lot that may gain a first hold has a pending portion). PRODUCT-REVISE, past the checks of R10, writes the new revision, is answered with the
previous and the new one, and changes and hands on nothing else; the revision the step has already changes nothing (R11). -/
def Obligations.MasksAndRevisionsAreStored : Prop :=
  ∀ (tag : BitVec 16) (s : State), s.takes tag →
    (∀ code step check m i p st old, validCode code → 1 ≤ step → step ≤ 4 → check.valid → s.findProduct code = some i → s.product i = some p →
      p.step step = some st → st.limits.mask check = some old →
      ∃ t, exec (.limitMask tag code step check (if m = .masked then 1 else 0)) s = .next t
        ∧ t.host.replies = s.host.replies ++ [.full tag (.request .limitMask) (okWith (.mask m))]
        ∧ (t.product i).map (fun q => (q.code, q.qaSample, q.steps)) =
            some (p.code, p.qaSample, p.steps.modify (step - 1) fun st => { st with limits := st.limits.setMask check m })
        ∧ (∀ j, j ≠ i → (t.product j).map (fun q => (q.code, q.qaSample, q.steps))
            = (s.product j).map fun q => (q.code, q.qaSample, q.steps))
        ∧ t.catalog = s.catalog ∧ t.baselines = s.baselines
        ∧ (¬ (old = .masked ∧ m = .unmasked) → t = State.answered tag .limitMask (okWith (.mask m))
            (modProduct i (Product.modStep step fun st => { st with limits := st.limits.setMask check m }) s))
        ∧ (old = .masked → m = .unmasked →
          (∀ y k, s.lot y = some k → k.product = i → k.stepIndex = step → k.holds = [] → k.pendingCells = []) →
          t.tallies = s.tallies ∧ ∀ x l reason detail, s.lot x = some l →
            (check = .yield ∧ reason = HoldReason.yield ∧ detail = 0 ∨ ∃ b, check = .bin b ∧ reason = .binlimit ∧ detail = b) →
            (∀ f, l.product = i → l.stepIndex = step → l.route = .stepOpen ∨ l.route = .stepHeld → l.state.direct = false →
              (s.tally x).flag check = some f → (s.tally x).waive.has check = false →
              (t.lot x).map (·.holds) = some (if l.heldFor reason then bumpHold reason l.holds
                else l.holds ++ [⟨reason, s.floorTime, 1, step, f.portion, detail⟩])
              ∧ ∀ c n, l.holds = [] → (c, n) ∈ l.atCells → (s.cell c).current = some ⟨x, n⟩ → (t.cell c).pause.hold = true)
            ∧ (l.product ≠ i ∨ l.stepIndex ≠ step ∨ (l.route ≠ .stepOpen ∧ l.route ≠ .stepHeld) ∨ l.state.direct
                ∨ (s.tally x).flag check = none ∨ (s.tally x).waive.has check →
              (t.lot x).map (·.holds) = some l.holds)))
    ∧ ∀ code step revision i p st, validCode code → 1 ≤ step → step ≤ 4 → 1 ≤ revision → revision ≤ 65535 → s.findProduct code = some i →
      s.product i = some p → p.step step = some st →
      (st.revision = revision →
        exec (.productRevise tag code step revision) s
          = .next (s.answered tag .productRevise (okWith (.revised revision revision))))
      ∧ (st.revision ≠ revision → (∀ x l, s.lot x = some l → l.isAtStep i step → l.revisionsUsed.length < 4) →
        exec (.productRevise tag code step revision) s
          = .next (State.answered tag .productRevise (okWith (.revised st.revision revision))
            (modProduct i (Product.modStep step fun st => { st with revision := revision }) s)))

/-- CATALOG-ADD puts the entry, APPROVED, at the end of the catalog, and an offer round follows (R13, R80), which does nothing while no
cell waits for work; CATALOG-REMOVE takes out an entry that nothing names, and nothing else changes (R15). That the portions of a
SCRAPPED lot whose step a shorter replacement has removed name nothing, and so bar no removal, is the model's choice (assumption 44). -/
def Obligations.CatalogEntriesComeAndGo : Prop :=
  ∀ (tag : BitVec 16) (s : State) (name : Text) (revision : Nat), s.takes tag → validName name → 1 ≤ revision → revision ≤ 65535 →
    (∀ length check, 1 ≤ length → length ≤ 16777215 → s.entry name revision = none → s.catalog.length < 32 →
      exec (.catalogAdd tag name revision length check) s
        = .next (settleHost (queueReply (.full tag (.request .catalogAdd) (okWith .none)) (offerRound { s with
          host := { s.host with rx := Receiver.between }
          catalog := s.catalog ++ [⟨name, revision, length, check, .approved⟩] })))
      ∧ (s.noCellWaits →
        exec (.catalogAdd tag name revision length check) s = .next (State.answered tag .catalogAdd (okWith .none)
          { s with catalog := s.catalog ++ [⟨name, revision, length, check, .approved⟩] })))
    ∧ ((s.entry name revision).isSome → (∀ i p st, s.product i = some p → st ∈ p.steps → ¬ (st.program = name ∧ st.revision = revision)) →
      (∀ x l, s.lot x = some l → l.state ≠ .closed →
        (∀ u ∈ s.summaryList x, ¬ (u.program = name ∧ revision ∈ u.revisions)) ∧
        (∀ st, s.stepOf l = some st → st.program = name → ∀ p ∈ l.portions, p.revision ≠ some revision ∧ revision ∉ p.placedRevs)) →
      (∀ c, (s.cell c).program ≠ some ⟨name, revision⟩ ∧ ((s.load c).active → (s.load c).program ≠ some ⟨name, revision⟩)) →
      exec (.catalogRemove tag name revision) s = .next (State.answered tag .catalogRemove (okWith .none)
        { s with catalog := s.catalog.filter fun e => !(e.name = name && e.revision = revision) }))

/-- CATALOG-STATE (R14, R17, R18, R163): a suspension leaves the revision not usable, no shipment CHECKING, and every other entry as it
was, and every lot with a portion AT-CELL under the revision, in no directly set state, holds a PROGRAM record. Where no lot waits, every
pending portion under the revision has a step that still names it, every active load of it is that of a LOADING cell whose portion stands
under it, and pending portions stand in their cells' slots, no offer follows the returns: those pending portions are QUEUED and out of
their slots, with an entry of their lot, and those loads FAILED with SUSPENDED, without a want or a block in flight, no buffer of the pool
reserved for them or filled by them, and waiting for none, their cells without portion and program. An approval leaves the revision
usable, an offer round follows, and while no cell waits for work nothing else changed; a state the entry has already changes nothing. -/
def Obligations.CatalogStateSuspendsAndApproves : Prop :=
  ∀ (tag : BitVec 16) (s : State) (name : Text) (revision : Nat) (e : CatEntry), s.takes tag → validName name → 1 ≤ revision →
    revision ≤ 65535 → s.entry name revision = some e →
    (e.state = .approved → ∃ t, exec (.catalogState tag name revision (some .suspended)) s = .next t
      ∧ t.host.replies = s.host.replies ++ [.full tag (.request .catalogState) (okWith .none)]
      ∧ t.approved name revision = false
      ∧ t.catalog = s.catalog.map (fun e => if e.name = name && e.revision = revision then { e with state := .suspended } else e)
      ∧ (∀ k h, t.ship k = some h → h.state ≠ .checking)
      ∧ t.baselines = s.baselines ∧ t.tickets = s.tickets ∧ t.floorTime = s.floorTime ∧ t.agingLimit = s.agingLimit
      ∧ (∀ x l st p, s.lot x = some l → l.state.direct = false → s.stepOf l = some st → st.program = name → p ∈ l.portions →
        p.atCell → p.revision = some revision → ∃ l', t.lot x = some l' ∧ l'.heldFor .program)
      ∧ (s.waitList = [] →
        (∀ c ref l p st, (s.cell c).pendingSlot = some ref → s.work ref = some (l, p, st) → st.program = name →
          p.revision = some revision → st.revision = revision) →
        (∀ c, (s.load c).active → (s.load c).program = some ⟨name, revision⟩ → (s.cell c).state = .loading
          ∧ ∃ ref l p st, (s.cell c).current = some ref ∧ s.work ref = some (l, p, st) ∧ st.program = name
            ∧ p.revision = some revision ∧ p.atCell ∧ l.state.direct = false) →
        (∀ x l p c, s.lot x = some l → p ∈ l.portions → p.state = .pending c → (s.cell c).pendingSlot = some ⟨x, p.number⟩) →
        (∀ c ref l p st, (s.cell c).pendingSlot = some ref → s.work ref = some (l, p, st) → p.state = .pending c →
          st.program = name → p.revision = some revision → (t.cell c).pendingSlot = none ∧ t.hasEntry ref.lot
            ∧ ((t.lot ref.lot).bind fun l => l.portion ref.portion) = some { p with state := .queued })
        ∧ ∀ c, (s.load c).active → (s.load c).program = some ⟨name, revision⟩ →
          (t.load c).state = .failed ∧ (t.load c).error = some .suspended ∧ (t.load c).wants = [] ∧ (t.load c).inFlight = []
          ∧ t.bufferWaiting.get c = false ∧ t.holdsNoBuffer c ∧ (t.cell c).current = none ∧ (t.cell c).program = none
          ∧ ((s.cell c).loadFailures < 3 → (t.cell c).state = .idle ∧ (t.cell c).loadFailures = (s.cell c).loadFailures)))
    ∧ (e.state = .suspended →
      exec (.catalogState tag name revision (some .approved)) s
        = .next (settleHost (queueReply (.full tag (.request .catalogState) (okWith .none)) (offerRound { s with
          host := { s.host with rx := Receiver.between }
          catalog := s.catalog.map fun e => if e.name = name && e.revision = revision then { e with state := .approved } else e })))
      ∧ (s.noCellWaits →
        exec (.catalogState tag name revision (some .approved)) s = .next (State.answered tag .catalogState (okWith .none)
          { s with catalog := s.catalog.map fun e => if e.name = name && e.revision = revision then { e with state := .approved } else e })))
    ∧ exec (.catalogState tag name revision (some e.state)) s = .next (s.answered tag .catalogState (okWith .none))

/-! ### Lot Manager -/

/-- The portions of a pass: their sizes sum to its quantity, none is empty, and there are no more than the cap; with a split size
of 0 or of at least the quantity there is one portion; else every portion but the last has one size, and the last no more: the split
size where that gives no more portions than the cap, else the quantity over the cap, rounded up, in as many portions as that size
takes (R22). -/
def Obligations.PortionSizesSplitThePass : Prop :=
  ∀ (split cap qs : Nat), 1 ≤ qs → 1 ≤ cap →
    (portionSizes split cap qs).sum = qs ∧ (portionSizes split cap qs).length ≤ cap ∧ (∀ z ∈ portionSizes split cap qs, 1 ≤ z)
    ∧ (split = 0 ∨ qs ≤ split → portionSizes split cap qs = [qs])
    ∧ (split ≠ 0 → split < qs → ceilDiv qs split ≤ cap → ∃ last, last ≤ split ∧
        portionSizes split cap qs = List.replicate (ceilDiv qs split - 1) split ++ [last])
    ∧ (split ≠ 0 → split < qs → cap < ceilDiv qs split → ∀ size, size = (qs + cap - 1) / cap → ∃ last, last ≤ size ∧
        portionSizes split cap qs = List.replicate ((qs + size - 1) / size - 1) size ++ [last])

/-- A pass completes, with every portion of the lot DONE and no cell waiting for work (R26, R27, R136, R156 to R159). A first pass is
evaluated once more, as final; then the summary of the step is built from the counts and the record as they stand, or, for a retest
pass, rebuilt, a bin of the retest bin set counting in the final counts by its retest alone; units lost in the pass raise a COUNT hold;
STEP-DONE tells the final good; and the lot is PARKED in STEP-HELD with its holds, or, with an empty hold list, proceeds as R27 says.
Where the portions close and T of the tally is their sum, the summary's T and L make QS. Where every summary is kept under its step
index, those of the other steps stay as they were. The order of these effects is R26's. That a shipment of a lot that enters NO-YIELD is
OPEN without it is R163's for an OPEN or CHECKING one, and the model's choice for a RELEASED one, which no run leads to (assumption 51). -/
def Obligations.CompletedPassesMakeTheSummary : Prop :=
  ∀ (s e t : State) (x : LotSlot) (l : Lot) (p : Product) (st : StepRec) (last loss : Nat), s.lot x = some l →
    s.product l.product = some p → p.step l.stepIndex = some st → l.stepIndex ≤ 4 → l.route = .stepOpen → l.state.direct = false →
    (∀ q ∈ l.portions, q.state = .done) → s.noCellWaits →
    e = (if l.retest then s else evaluate offerRound x last true s) → t = completePass offerRound x last s →
    loss = ((l.portions.filter fun q => passOf q.number = l.pass).map (·.l)).sum →
    (l.retest = false → t.summary x l.stepIndex = some
      { step := l.stepIndex, program := st.program, retestBins := st.retestBins,
        qs := ((l.portions.filter fun q => passOf q.number = .first).map (·.q)).sum,
        firstCounts := (s.tally x).first, firstT := (s.tally x).first.sum, firstL := loss, retestIncluded := false, rq := 0,
        retestCounts := Counts.zero, retestT := 0, retestL := 0, finalCounts := (s.tally x).first,
        finalGood := (s.tally x).first.bin 1, revisions := l.revisionsUsed, yieldFlag := (e.tally x).yieldFlag,
        binFlags := (e.tally x).binFlags, waive := (s.tally x).waive, smallAtFinal := (e.tally x).smallAtFinal,
        checkRaised := s.checkMark x })
    ∧ (l.retest → ∀ u, s.summary x l.stepIndex = some u → u.step = l.stepIndex → ∃ m, t.summary x l.stepIndex = some m
      ∧ m = { u with
          retestIncluded := true, rq := ((l.portions.filter fun q => passOf q.number = .retest).map (·.q)).sum,
          retestCounts := (s.tally x).retest, retestT := (s.tally x).retest.sum, retestL := loss, finalCounts := m.finalCounts,
          finalGood := m.finalCounts.bin 1, revisions := l.revisionsUsed, yieldFlag := (s.tally x).yieldFlag,
          binFlags := (s.tally x).binFlags, waive := (s.tally x).waive, smallAtFinal := (s.tally x).smallAtFinal,
          checkRaised := s.checkMark x }
      ∧ ∀ b, 1 ≤ b → b ≤ 16 → m.finalCounts.bin b = if BinSet.has u.retestBins b then (s.tally x).retest.bin b
        else u.firstCounts.bin b + (s.tally x).retest.bin b)
    ∧ (l.retest = false → (∀ q ∈ l.portions, q.closes ∧ q.r = 0 ∧ q.h = 0) →
      (s.tally x).first.sum = ((l.portions.filter fun q => passOf q.number = .first).map (·.t)).sum →
      ∀ m, t.summary x l.stepIndex = some m → m.firstT + m.firstL = m.qs)
    ∧ (s.summariesPlaced → ∀ k, k ≠ l.stepIndex → t.summary x k = s.summary x k)
    ∧ (0 < loss → t.tally x = e.tally x ∧ ∃ l', t.lot x = some l' ∧ l'.route = .stepHeld ∧ l'.state = .parked ∧ l'.heldFor .count
      ∧ l'.portions = l.portions)
    ∧ (∀ le, e.lot x = some le → le.holds ≠ [] → loss = 0 →
      t.lot x = some { le with route := .stepHeld, state := .parked } ∧ t.tally x = e.tally x)
    ∧ (∀ le m, e.lot x = some le → le.holds = [] → loss = 0 → t.summary x l.stepIndex = some m →
      State.proceeded x { le with route := .stepHeld } p m.finalGood e t)
    ∧ (∀ m, t.summary x l.stepIndex = some m → e.host.reports.length ≤ 60 →
      ⟨s.floorTime, .stepDone l.id l.stepIndex l.pass m.finalGood⟩ ∈ t.host.reports)
    ∧ (∀ y, y ≠ x → t.lot y = s.lot y ∧ t.tally y = s.tally y ∧ t.summaryList y = s.summaryList y)
    ∧ t.cells = s.cells ∧ t.ports = s.ports ∧ t.loads = s.loads ∧ t.catalog = s.catalog ∧ t.baselines = s.baselines

/-- LOT-REGISTER (R21, R22, R71): the lot takes the lowest free slot and the next registration number, its product gains a live
lot, step 1 is queued in portions of the given sizes, its entry joins the wait list, and an offer round follows, which does nothing while no cell waits for work.
Nothing else changes. -/
def Obligations.LotRegisterQueuesTheFirstStep : Prop :=
  ∀ (tag : BitVec 16) (id code : Text) (priority startQty split : Nat) (s : State) (i : ProductIx) (x : LotSlot) (l : Lot),
    s.takes tag → validName id → validCode code → priority ≤ 3 → 1 ≤ startQty → startQty ≤ 65535 → split ≤ 65535 →
    s.findLot id = none → s.findProduct code = some i → s.freeLot = some x → s.hasEntry x = false →
    l = { id := id, product := i, priority := priority, startQty := startQty, split := split, stepIndex := 1, route := .stepOpen,
          retest := false, state := .waiting, holds := [], baselineEligible := true, small := false, stepReady := s.floorTime,
          regTime := s.floorTime, regNo := s.regCounter, portions := newPortions 1 (portionSizes split 8 startQty) } →
    ∀ u, u = { s with
        lots := s.lots.set x.val (some l) x.isLt
        regCounter := satInc top32 s.regCounter
        products := s.products.set i.val ((s.product i).map fun p => { p with live := p.live + 1 }) i.isLt
        tallies := s.tallies.set x.val LotStepRec.empty x.isLt
        summaries := s.summaries.set x.val (Vector.replicate 4 none) x.isLt
        checkMarks := s.checkMarks.set x.val false x.isLt
        waitList := insertEntry (s.setLot x (some l)) ⟨x, priority, s.floorTime, 0⟩ s.waitList } →
      exec (.lotRegister tag id code priority startQty split) s
        = .next (settleHost (queueReply (.full tag (.request .lotRegister) (okWith (.registered x (portionSizes split 8 startQty))))
          (offerRound { u with host := { s.host with rx := Receiver.between } })))
      ∧ (s.noCellWaits → exec (.lotRegister tag id code priority startQty split) s
        = .next (State.answered tag .lotRegister (okWith (.registered x (portionSizes split 8 startQty))) u))

/-- LOT-PRIORITY sets the priority of the lot and of its wait-list entry, which moves to its place with its skip count and
step-ready time, and an offer round follows, which does nothing while no cell waits for work (R37, R73); LOT-DELETE frees the slot of a CLOSED, SCRAPPED or NO-YIELD lot with all that other units hold for it,
and is refused for any other lot (R39). Nothing else changes; so an entry that a deleted lot has, which only a composed context record
leads to, stays for its slot, which is the model's choice (assumption 48). -/
def Obligations.LotPriorityAndDelete : Prop :=
  ∀ (tag : BitVec 16) (id : Text) (s : State) (x : LotSlot) (l : Lot), s.takes tag → validName id → s.findLot id = some x →
    s.lot x = some l →
    (∀ priority, priority ≤ 3 → l.state.direct = false →
      (s.hasEntry x = false → exec (.lotPriority tag id priority) s
        = .next (State.answered tag .lotPriority (okWith .none) (s.setLot x (some { l with priority := priority }))))
      ∧ ∀ e u, s.waitList.find? (fun e => e.lot = x) = some e →
        u = { s.setLot x (some { l with priority := priority }) with
            waitList := if e.priority = priority then s.waitList
              else insertEntry s { e with priority := priority } (s.waitList.filter fun f => f.lot ≠ x) } →
        exec (.lotPriority tag id priority) s
          = .next (settleHost (queueReply (.full tag (.request .lotPriority) (okWith .none))
            (offerRound { u with host := { s.host with rx := Receiver.between } })))
        ∧ (s.noCellWaits → exec (.lotPriority tag id priority) s = .next (State.answered tag .lotPriority (okWith .none) u)))
    ∧ (l.state = .closed ∨ l.state = .scrapped ∨ l.state = .noYield →
      exec (.lotDelete tag id) s = .next (State.answered tag .lotDelete (okWith .none)
        { s with
          lots := s.lots.set x.val none x.isLt
          tallies := s.tallies.set x.val LotStepRec.empty x.isLt
          summaries := s.summaries.set x.val (Vector.replicate 4 none) x.isLt
          checkMarks := s.checkMarks.set x.val false x.isLt }))
    ∧ (¬ (l.state = .closed ∨ l.state = .scrapped ∨ l.state = .noYield) →
      exec (.lotDelete tag id) s = .next (s.answered tag .lotDelete (refusedFor .wrongState)))

/-- LOT-HOLD on a lot in no directly set state (R28, R29, R36). A lot that is not RELEASED and holds an ENGINEERING record gains an
occurrence on it; any other gains the record, with its HOLD-RAISED report. With no portion of the lot in a cell's slots the only other
effects are those on its shipment and, for its first hold, on its state; with portions at cells, and none pending, a first hold adds
HOLD to the pause reasons of those cells. A RELEASED lot's ticket is withdrawn first (R167): it leaves the queue with a
TICKET-WITHDRAWN report of cause LOT-HOLD, the shipment is OPEN at progress 0, its members are COMPLETE, and the record is raised. -/
def Obligations.LotHoldRaisesAnEngineeringHold : Prop :=
  ∀ (tag : BitVec 16) (id : Text) (s : State) (x : LotSlot) (l : Lot) (record : Hold), s.takes tag → validName id →
    s.findLot id = some x → s.lot x = some l → l.state.direct = false → record = ⟨.engineering, s.floorTime, 1, l.stepIndex, 0, 0⟩ →
    (l.state ≠ .released → l.heldFor .engineering →
      exec (.lotHold tag id) s = .next (State.answered tag .lotHold
        (okWith (.occurrence (Lot.occurrences { l with holds := bumpHold .engineering l.holds } .engineering)))
        (lotChanged x (s.setLot x (some { l with holds := bumpHold .engineering l.holds })))))
    ∧ (l.state ≠ .released → l.heldFor .engineering = false → l.portions.any Portion.placed = false → ∀ u,
      u = lotChanged x (raise (.holdRaised l.id .engineering l.stepIndex 0 0)
        (s.setLot x (some { l with holds := l.holds ++ [record] }))) →
      exec (.lotHold tag id) s = .next (State.answered tag .lotHold (okWith (.occurrence 1))
        (if l.holds.isEmpty then refreshLot x u else u)))
    ∧ (l.state ≠ .released → l.holds = [] → l.pendingCells = [] → ∃ t, exec (.lotHold tag id) s = .next t
      ∧ t.host.replies = s.host.replies ++ [.full tag (.request .lotHold) (okWith (.occurrence 1))]
      ∧ (∃ l', t.lot x = some l' ∧ l'.holds = [record] ∧ l'.portions = l.portions)
      ∧ (∀ y, y ≠ x → t.lot y = s.lot y) ∧ t.waitList = s.waitList ∧ t.tallies = s.tallies ∧ t.loads = s.loads
      ∧ ∀ a ∈ l.atCells, (s.cell a.1).current = some ⟨x, a.2⟩ → (t.cell a.1).pause.hold
        ∧ ((s.cell a.1).pause.isEmpty → (s.cell a.1).state = .running ∨ (s.cell a.1).state = .soaking → (t.cell a.1).state = .paused))
    ∧ ∀ k h, l.state = .released → l.route = .routeEnd → l.heldFor .engineering = false → l.portions.any Portion.placed = false →
      s.shipOf x = some k → s.ship k = some h → h.state = .released → (∀ y ∈ h.members, s.shipOf y = some k) →
      ∃ t, exec (.lotHold tag id) s = .next t
      ∧ t.host.replies = s.host.replies ++ [.full tag (.request .lotHold) (okWith (.occurrence 1))]
      ∧ (s.host.tx ≠ none → s.host.headHeld = false → s.host.reports.length + h.members.length < 64 →
        ⟨s.floorTime, .ticketWithdrawn (h.ticket.getD 0) h.id (.lotHold l.id)⟩ ∈ t.host.reports)
      ∧ t.ship k = some { h with state := .open, progress := 0, ticket := none }
      ∧ t.tickets = s.tickets.filter (fun v => some v.number ≠ h.ticket)
      ∧ t.lot x = some { l with state := .complete, holds := l.holds ++ [record] }
      ∧ (∀ y l', y ∈ h.members → y ≠ x → s.lot y = some l' → l'.state = .released → l'.route = .routeEnd →
        t.lot y = some { l' with state := .complete })
      ∧ (∀ y, y ∉ h.members → t.lot y = s.lot y) ∧ (∀ j, j ≠ k → t.ship j = s.ship j)
      ∧ t.cells = s.cells ∧ t.waitList = s.waitList ∧ t.ticketCounter = s.ticketCounter

/-- LOT-DISPOSE with RELEASE, RELEASE-EXCLUDE or RETEST (R30 to R34), first for a lot with no portion at a cell, while no cell waits for
work: the record leaves the list with its HOLD-CLEARED report; RELEASE-EXCLUDE and RETEST take away baseline eligibility; RELEASE of a
YIELD or BINLIMIT record at its step waives its checks; RETEST clears the flags of the reason and queues the retest pass beside the first
pass; a STEP-HELD lot whose last record is released proceeds (R27). A QA record's RETEST takes the lot back to QA-SAMPLE, its
RELEASE-EXCLUDE to ROUTE-END, without eligibility (R34). HOLD-CLEARED before the effects, and the order of the effects when the last
record is gone, are the model's reading (assumptions 10 and 11). That a lot whose step index lies beyond its route proceeds as from the
last step, and that its final good is 0 where no summary is held, so that it is NO-YIELD, is the model's choice for lots that only a
composed context record brings (assumptions 43 and 41), and so is that a RELEASED shipment would lose a lot that is NO-YIELD as R163 has
an OPEN or CHECKING one lose it (assumption 51). Then for any lot: with records left only the record goes; with the last one, every
AT-CELL portion's cell has a hold-removed event (the order: assumption 37), a STEP-HELD lot proceeds and one with an entry has a round
(R30). That event takes HOLD from the cell whose current portion it names, and an emptied set resumes it: PAUSED goes on, soaks again or
makes its setup check, and IDLE may wait (R53, R54). -/
def Obligations.DisposedHoldsLeaveTheList : Prop :=
  (∀ (tag : BitVec 16) (id : Text) (s : State) (x : LotSlot) (l : Lot) (h : Hold), s.takes tag → validName id →
    s.findLot id = some x → s.lot x = some l → l.holds.find? (fun g => g.reason = h.reason) = some h →
    ((l.portions.any Portion.atCell) = false → s.noCellWaits →
    (∀ d, d = .release ∨ d = .releaseExclude → l.route ≠ .stepHeld ∨ (l.holds.filter fun g => g.reason ≠ h.reason) ≠ [] →
      h.reason ≠ .qa →
      (allowed h.reason d).holds s x l h →
      ∀ l' u, l' = { l with
          holds := l.holds.filter fun g => g.reason ≠ h.reason
          baselineEligible := if d = .releaseExclude then false else l.baselineEligible } →
      u = refreshLot x (waiveRecord x l h (lotChanged x (raise (.holdCleared l.id h.reason d) (s.setLot x (some l'))))) →
      exec (.lotDispose tag id (some h.reason) (some d)) s
        = .next (State.answered tag .lotDispose (okWith (.lotState (stateAfter u x l.state))) u)
      ∧ (h.reason = .yield → l.route = .stepOpen → h.step = l.stepIndex → (u.tally x).waive.yield = true)
      ∧ (h.reason ≠ .yield → h.reason ≠ .binlimit → u.tallies = s.tallies))
    ∧ (∀ d p, d = .release ∨ d = .releaseExclude → l.route = .stepHeld → h.reason ≠ .qa → (allowed h.reason d).holds s x l h →
      (l.holds.filter fun g => g.reason ≠ h.reason) = [] → l.state.direct = false → s.product l.product = some p →
      ∃ t st, exec (.lotDispose tag id (some h.reason) (some d)) s = .next t ∧ (t.lot x).map (·.state) = some st
        ∧ t.host.replies = s.host.replies ++ [.full tag (.request .lotDispose) (okWith (.lotState st))]
        ∧ State.proceeded x { l with holds := [], baselineEligible := if d = .releaseExclude then false else l.baselineEligible } p
          (s.finalGood x l.stepIndex) s t
        ∧ (∀ y, y ≠ x → t.lot y = s.lot y ∧ t.tally y = s.tally y)
        ∧ t.cells = s.cells ∧ t.ports = s.ports ∧ t.loads = s.loads ∧ t.catalog = s.catalog ∧ t.summaries = s.summaries)
    ∧ (∀ d l' u, h.reason = .qa → d = .releaseExclude ∨ d = .retest →
      l' = { l with
          holds := l.holds.filter fun g => g.reason ≠ .qa
          route := if d = .retest then .qaSample else .routeEnd
          baselineEligible := if d = .retest then l.baselineEligible else false } →
      u = refreshLot x ((lotChanged x (raise (.holdCleared l.id .qa d)
        (s.setLot x (some { l with holds := l.holds.filter fun g => g.reason ≠ .qa })))).setLot x (some l')) →
      exec (.lotDispose tag id (some .qa) (some d)) s
        = .next (State.answered tag .lotDispose (okWith (.lotState (stateAfter u x l.state))) u))
    ∧ (h.reason = .yield ∨ h.reason = .binlimit → meetsA s x l h → s.hasEntry x = false → s.shipOf x = none →
      ∃ t, exec (.lotDispose tag id (some h.reason) (some .retest)) s = .next t
        ∧ (∃ l', t.lot x = some l' ∧ l'.holds = l.holds.filter (fun g => g.reason ≠ h.reason) ∧ l'.baselineEligible = false
          ∧ l'.route = .stepOpen ∧ l'.retest = true ∧ l'.stepReady = s.floorTime ∧ l'.id = l.id ∧ l'.stepIndex = l.stepIndex
          ∧ l'.portions = l.passPortions .first ++ newPortions 9 (portionSizes l.split 4 (retestQuantity s x l)))
        ∧ t.tally x = clearRetestFlags h.reason (s.tally x)
        ∧ (h.reason = .yield → (t.tally x).yieldFlag = none) ∧ (h.reason = .binlimit → ∀ b, (t.tally x).flag (.bin b) = none)
        ∧ t.waitList = insertEntry s ⟨x, l.priority, s.floorTime, 0⟩ s.waitList
        ∧ (∀ y, y ≠ x → t.lot y = s.lot y ∧ t.tally y = s.tally y)
        ∧ t.cells = s.cells ∧ t.ports = s.ports ∧ t.loads = s.loads ∧ t.catalog = s.catalog ∧ t.products = s.products
        ∧ t.summaries = s.summaries))
    ∧ ∀ d l' u v w t, d = .release ∨ d = .releaseExclude → h.reason ≠ .qa → (allowed h.reason d).holds s x l h →
      l' = { l with
          holds := l.holds.filter fun g => g.reason ≠ h.reason
          baselineEligible := if d = .releaseExclude then false else l.baselineEligible } →
      u = waiveRecord x l h (lotChanged x (raise (.holdCleared l.id h.reason d) (s.setLot x (some l')))) →
      v = l.atCells.foldl (fun s a => holdRemoved offerRound a.1 ⟨x, a.2⟩ s) u →
      w = (if (v.lot x).map (·.route) = some .stepHeld then proceed offerRound x v else v) →
      t = refreshLot x (if l'.holds ≠ [] then u else if w.hasEntry x then offerRound w else w) →
      exec (.lotDispose tag id (some h.reason) (some d)) s
        = .next (State.answered tag .lotDispose (okWith (.lotState (stateAfter t x l.state))) t))
  ∧ ∀ (u : State) (c : CellId) (ref : PortionRef) (y : Cell) (joins : Cell → State → State),
    y = { u.cell c with pause := (u.cell c).pause.drop .hold } →
    joins = (fun z v => if z.waits ∧ u.waiting.get c = false then offerRound (setWaiting c true v) else setWaiting c z.waits v) →
    ((u.cell c).current ≠ some ref ∨ (u.cell c).pause.hold = false → holdRemoved offerRound c ref u = u)
    ∧ ((u.cell c).current = some ref → (u.cell c).pause.hold →
      (y.pause.isEmpty = false ∨ y.state ≠ .paused ∧ y.state ≠ .idle → holdRemoved offerRound c ref u = u.setCell c y)
      ∧ (y.pause.isEmpty → y.state = .idle → holdRemoved offerRound c ref u = joins y (u.setCell c y))
      ∧ (y.pause.isEmpty → y.state = .paused → y.runStarted → y.runTested ≠ 0 → ∀ z, z = { y with state := .running } →
        holdRemoved offerRound c ref u
          = joins z (raise (.cellState c .paused .running y.pause y.fault) ((sendFrame c .resume u).setCell c z)))
      ∧ (y.pause.isEmpty → y.state = .paused → y.runStarted → y.runTested = 0 → ∀ w, u.currentWork c = some w →
        holdRemoved offerRound c ref u = raise (.cellState c .paused .soaking y.pause y.fault)
          ((sendFrame c (.soak w.2.2.2.tempClass) u).setCell c
            { y with state := .soaking, soakTimer := some w.2.2.2.soakTimeout, dwellTimer := none }))
      ∧ (y.pause.isEmpty → y.state = .paused → y.runStarted = false → ∀ l p st, u.currentWork c = some (ref, l, p, st) →
        (y.kit ≠ some st.kit → holdRemoved offerRound c ref u = raise (.changeover c l.id p.number st.kit y.kit)
          (raise (.cellState c .paused .reserved y.pause y.fault) (u.setCell c { y with state := .reserved })))
        ∧ (y.kit = some st.kit → y.program = p.revision.map (fun r => ⟨st.program, r⟩) →
          holdRemoved offerRound c ref u = raise (.cellState c .paused .soaking y.pause y.fault)
            ((sendFrame c (.soak st.tempClass) u).setCell c
              { y with state := .soaking, soakTimer := some st.soakTimeout, dwellTimer := none }))
        ∧ ∀ n e t, y.kit = some st.kit → p.revision = some n → y.program ≠ some ⟨st.program, n⟩ →
          u.entry st.program n = some e → e.state = .approved → t = holdRemoved offerRound c ref u →
          t.cell c = { y with state := .loading } ∧ (t.load c).state = .wanting ∧ (t.load c).program = some ⟨st.program, n⟩
          ∧ (t.load c).length = e.length ∧ t.lots = u.lots ∧ t.catalog = u.catalog ∧ t.waitList = u.waitList))

/-- LOT-DISPOSE with SCRAP (R35): every hold is gone, every QUEUED or PENDING portion has lost its remaining units and is DONE, the lot is
off the wait list, its shipment has lost it and is OPEN at progress 0: R163 has the shipment OPEN or CHECKING, and that a RELEASED one,
which only a composed context record leads to, becomes OPEN too and keeps its ticket in the queue, is the model's choice (assumption 51).
Without a portion AT-CELL the lot is SCRAPPED and its product has one live lot fewer. A portion AT-CELL on an online cell brings that cell
an abort event, which acts as CELL-CLEAR does (R63): the intake is discarded, program and switched-off sites are gone, an active load is
FAILED with ABORTED and holds no buffer (R101, R102), ABORT and PURGE go out, the cell is PURGING with its timer at 600 s. A portion whose
run has started stays AT-CELL, and the lot is SCRAPPING, its product's live lots as before, until the purge (O36); one whose run has not
started leaves the slot at once, its units lost. Here no other lot waits for work or is pending on those cells; no other lot and no other
cell changes. -/
def Obligations.ScrapEndsTheLot : Prop :=
  ∀ (tag : BitVec 16) (id : Text) (s : State) (x : LotSlot) (l : Lot) (h : Hold) (stays : Portion → Bool) (lost : Portion → Portion),
    s.takes tag → validName id → s.findLot id = some x → s.lot x = some l →
    l.holds.find? (fun g => g.reason = h.reason) = some h → (l.portions.map (·.number)).Nodup →
    stays = (fun p => match p.state with | .atCell c => (s.cell c).runStarted | .queued | .pending _ | .done => false) →
    lost = (fun p => { p with l := p.l + p.r, r := 0, state := .done, endTime := some s.floorTime }) →
    (∀ p ∈ l.portions, ∀ c, p.state = .pending c → (s.cell c).pendingSlot = some ⟨x, p.number⟩) →
    (∀ p ∈ l.portions, ∀ c, p.state = .atCell c → (s.cell c).online ∧ (s.cell c).current = some ⟨x, p.number⟩
      ∧ ∀ ref, (s.cell c).pendingSlot = some ref → ref.lot = x ∧ ∃ q ∈ l.portions, q.number = ref.portion ∧ q.state = .pending c) →
    l.portions.any Portion.placed = false ∨ (∀ e ∈ s.waitList, e.lot = x) →
    ∃ t st, exec (.lotDispose tag id (some h.reason) (some .scrap)) s = .next t
      ∧ st = (if l.portions.any stays then .scrapping else .scrapped)
      ∧ t.host.replies = s.host.replies ++ [.full tag (.request .lotDispose) (okWith (.lotState st))]
      ∧ t.lot x = some { l with
          holds := []
          state := st
          portions := l.portions.map fun p => if p.state = .done ∨ stays p then p else lost p }
      ∧ (∀ y, y ≠ x → t.lot y = s.lot y)
      ∧ t.waitList = s.waitList.filter (fun e => e.lot ≠ x)
      ∧ (∀ k g, s.shipOf x = some k → s.ship k = some g →
        t.ship k = some { g with state := .open, progress := 0, members := g.members.filter fun m => m ≠ x })
      ∧ t.product l.product = (s.product l.product).map (fun p => { p with live := if st = .scrapped then p.live - 1 else p.live })
      ∧ (∀ p ∈ l.portions, ∀ c, p.state = .pending c → (t.cell c).pendingSlot = none)
      ∧ (∀ p ∈ l.portions, ∀ c, p.state = .atCell c → (t.cell c).state = .purging ∧ (t.cell c).purgeTimer = some 600
        ∧ (t.cell c).current = (if stays p then some ⟨x, p.number⟩ else none) ∧ (t.cell c).program = none ∧ (t.cell c).siteOff = 0
        ∧ (t.cell c).pause.jam = false ∧ (t.port c).queue = [] ∧ (t.port c).runOpen = false ∧ t.waiting.get c = false
        ∧ ((s.load c).active → (t.load c).state = .failed ∧ (t.load c).error = some .aborted ∧ (t.load c).wants = []
          ∧ (t.load c).inFlight = [] ∧ t.bufferWaiting.get c = false ∧ t.holdsNoBuffer c)
        ∧ ((s.load c).active = false → (s.port c).tx = none → (s.port c).txList = [] →
          (t.port c).tx = some .abort ∧ (t.port c).txList = [.purge]))
      ∧ (∀ c, (∀ p ∈ l.portions, p.state ≠ .atCell c) → t.port c = s.port c
        ∧ ((∀ p ∈ l.portions, p.state ≠ .pending c) → t.cell c = s.cell c))
      ∧ t.tallies = s.tallies ∧ t.summaries = s.summaries ∧ t.catalog = s.catalog ∧ t.tickets = s.tickets ∧ t.baselines = s.baselines

/-- LOT-EXPORT of a lot that may leave carries its context and frees its slot with all that other units hold for it (R40); LOT-IMPORT of a
context recreates the lot in the lowest free slot with every recorded field, a new registration number and the state of R20 (R41); its
tally comes back while its step is open or held, without the flags and waivers of bins the step does not monitor now (R140), its summaries
and check mark come back, and with a QUEUED portion it joins the wait list. Its flags are then reviewed: one that is set, unmasked now and
not waived, and whose reason the imported list does not hold, hands a hold event, and the list gains (of a product within R3's ranges) a
YIELD record with the flag's portion, or one BINLIMIT record with the first such bin and an occurrence for each; with a record an open
step is PARKED. A step index beyond the route finds no step: bin flags and waivers are dropped, nothing is reviewed (assumption 43). While
no cell waits for work no other lot, and no cell, port, load, product's route, shipment, ticket, baseline or catalog entry changes. A
record with a byte that stands for nothing, an unused bit in a text, or a field out of its range is refused BAD_FIELD. The form of the
record, and how its portions and summaries are kept, are the model's reading of R19 and R40 (assumption 19); their order in the exported
record, ascending, is its choice (assumption 49); its texts are read as R186 says. R41 names the ranges, and R123 gives the portion number
stored in a flag none: that 0 to 12 is taken there, and a number above refused BAD_FIELD, is the model's choice (assumption 50), and so is
that a tally is taken whatever its sums (assumption 34), and a summary's revisions as they stand, a repeat counted (assumption 42). -/
def Obligations.LotsLeaveAndReturnWithTheirContext : Prop :=
  ∀ (tag : BitVec 16) (s : State), s.takes tag →
    (∀ id x l, validName id → s.findLot id = some x → s.lot x = some l → exportable s x l →
      exec (.lotExport tag id) s = .next (State.answered tag .lotExport (okWith (.context (contextOf s x l)))
        { s with
          lots := s.lots.set x.val none x.isLt
          tallies := s.tallies.set x.val LotStepRec.empty x.isLt
          summaries := s.summaries.set x.val (Vector.replicate 4 none) x.isLt
          checkMarks := s.checkMarks.set x.val false x.isLt
          waitList := s.waitList.filter fun e => e.lot ≠ x
          products := s.products.set l.product.val ((s.product l.product).map fun p => { p with live := p.live - 1 }) l.product.isLt }))
    ∧ exec (.lotImport tag none) s = .next (s.answered tag .lotImport (refusedFor .badField))
    ∧ (∀ c : LotContext, (∃ t ∈ c.texts, readFixedText t = .unusedBit) ∨ validContext c.read = false →
      exec (.lotImport tag (some c)) s = .next (s.answered tag .lotImport (refusedFor .badField)))
    ∧ ∀ (field c : LotContext) i p x l (due : CheckSel → Bool) (raised : List Hold), (∀ t ∈ field.texts, readFixedText t ≠ .unusedBit) →
      c = field.read → validContext c → s.findLot c.id = none → s.findProduct c.productCode = some i →
      s.product i = some p → importBarred c p = false → s.freeLot = some x → s.noCellWaits → s.shipOf x = none →
      s.hasEntry x = false → l = importedLot c i s.regCounter →
      due = (fun k => c.route.atStep && (match p.step c.stepIndex with | some st => st.limits.mask k == some .unmasked | none => false)
        && (c.tally.flag k).isSome && !c.tally.waive.has k && !(c.holds.any fun h => h.reason = checkReason k)) →
      raised = (if due .yield then [⟨.yield, s.floorTime, 1, c.stepIndex, ((c.tally.flag .yield).map fun f : FlagValues => f.portion).getD 0, 0⟩] else [])
        ++ (match ((match p.step c.stepIndex with | some st => st.limits.entries.map (fun e : MonEntry => e.bin) | none => []).filter fun b => due (.bin b)) with
          | [] => []
          | b :: bs => [⟨.binlimit, s.floorTime, bs.length + 1, c.stepIndex, ((c.tally.flag (.bin b)).map fun f : FlagValues => f.portion).getD 0, b⟩]) →
      (∀ st, p.step c.stepIndex = some st → st.limits.entries.length ≤ 4 ∧ ∀ e ∈ st.limits.entries, 2 ≤ e.bin ∧ e.bin ≤ 16) →
      ∃ t state, exec (.lotImport tag (some field)) s = .next t
        ∧ t.host.replies = s.host.replies ++ [.full tag (.request .lotImport) (okWith (.imported x state))]
        ∧ state = (if raised ≠ [] ∧ c.route = .stepOpen then .parked else l.state)
        ∧ t.lot x = some { l with holds := c.holds ++ raised, state := state } ∧ (∀ y, y ≠ x → t.lot y = s.lot y ∧ t.tally y = s.tally y ∧ t.summaryList y = s.summaryList y)
        ∧ l.id = c.id ∧ l.product = i ∧ l.priority = c.priority ∧ l.startQty = c.startQty ∧ l.split = c.split
        ∧ l.stepIndex = c.stepIndex ∧ l.route = c.route ∧ l.retest = c.retest
        ∧ l.baselineEligible = c.baselineEligible ∧ l.small = c.small ∧ l.stepReady = c.stepReady ∧ l.regTime = c.regTime
        ∧ (∀ q ∈ l.portions, q ∈ c.portions) ∧ (∀ q ∈ c.portions, ∃ r ∈ l.portions, r.number = q.number)
        ∧ (l.portions.map (·.number)).Nodup
        ∧ t.tally x = (if c.route = .stepOpen ∨ c.route = .stepHeld
          then trimImported (match p.step c.stepIndex with | some st => st.limits.entries | none => []) c.tally else LotStepRec.empty)
        ∧ (∀ step, 1 ≤ step → step ≤ 4 → t.summary x step = c.summaries.reverse.find? fun u => u.step = step)
        ∧ t.waitList = (if l.portions.any (fun q => q.state = .queued)
          then insertEntry (s.setLot x (some l)) ⟨x, c.priority, c.stepReady, 0⟩ s.waitList else s.waitList)
        ∧ t.ports = s.ports ∧ t.loads = s.loads ∧ t.baselines = s.baselines ∧ (∀ j, j ≠ i → t.product j = s.product j)
        ∧ t.regCounter = satInc top32 s.regCounter
        ∧ t.product i = some { p with live := p.live + 1 } ∧ t.checkMark x = c.checkMark
        ∧ t.cells = s.cells ∧ t.catalog = s.catalog ∧ t.ships = s.ships ∧ t.tickets = s.tickets


/-! ### Cell Manager -/

/-- CELL-CONFIGURE of an OFFLINE or DOWN cell with empty slots (R66, R67, R121, R126): every value is stored, a clamped one at the
nearest end of its range; the link is DOWN, capability, kit, program, switched-off sites and counts are gone, the port is as after
a cold reset but for its frame under way and its production-arrived flag, which stay (assumptions 13 and 31); MAINTENANCE-DUE is as limit and counter give it, with its report when it becomes yes. -/
def Obligations.CellConfigureStoresTheValues : Prop :=
  ∀ (tag : BitVec 16) (s : State) (c : CellId) (name : Text) (speed limit lifetime interval lim int : Nat) (x : Cell),
    s.takes tag → validName name → speed = 115200 ∨ speed = 460800 → lifetime ≤ 4294967295 →
    (s.cell c).state = .offline ∨ (s.cell c).state = .down → (s.cell c).current = none → (s.cell c).pendingSlot = none →
    lim = (if limit = 0 then 0 else max 1000 (min 4000000000 limit)) → int = min 255 interval →
    x = { s.cell c with
      configured := true, stationName := some name, speed := speed, linkUp := false, siteCount := none, classes := none, kit := none,
      program := none, siteOff := 0, consec := Vector.replicate 8 0, lifetime := lifetime, contactorLimit := lim,
      maintenanceDue := decide (lim ≠ 0 ∧ lim ≤ lifetime), loadFailures := 0, tallyInterval := int } →
    ((∀ d, d ≠ c → (s.cell d).configured → (s.cell d).stationName ≠ some name) → ∀ u,
      u = { s with
        cells := s.cells.set c.val x c.isLt
        ports := s.ports.set c.val { Port.reset with tx := (s.port c).tx, productionArrived := (s.port c).productionArrived } c.isLt
        runGroups := s.runGroups.set c.val 0 c.isLt
        waiting := s.waiting.set c.val false c.isLt } →
      exec (.cellConfigure tag c.val name speed limit lifetime interval) s
        = .next (State.answered tag .cellConfigure (okWith (.configured name speed lim lifetime int))
          (if x.maintenanceDue && !(s.cell c).maintenanceDue then raise (.maintenance c lifetime lim) u else u)))
    ∧ ∀ d, d ≠ c → (s.cell d).configured → (s.cell d).stationName = some name →
      exec (.cellConfigure tag c.val name speed limit lifetime interval) s
        = .next (s.answered tag .cellConfigure (refusedFor .duplicate))

/-- CELL-PAUSE adds OPERATOR and JAM adds JAM to the pause-reason set of a cell (R48, R53, R55, R56). When the set was empty a
RUNNING or SOAKING cell is sent PAUSE and enters PAUSED, a SOAKING one with both its timers stopped; in any other case the state
stays and nothing is sent. JAM discards the group being assembled, at once or when the records ahead of it have been taken (R112,
R118). -/
def Obligations.PauseReasonsStopTheCell : Prop :=
  ∀ (s : State) (c : CellId) (stops : Bool),
    stops = ((s.cell c).pause.isEmpty && ((s.cell c).state == .running || (s.cell c).state == .soaking)) →
    (∀ (tag : BitVec 16) (x : Cell), s.takes tag → (s.cell c).configured →
      x = { s.cell c with
        pause := { (s.cell c).pause with operator := true }
        state := if stops then .paused else (s.cell c).state
        soakTimer := if stops && (s.cell c).state == .soaking then none else (s.cell c).soakTimer
        dwellTimer := if stops && (s.cell c).state == .soaking then none else (s.cell c).dwellTimer } →
      exec (.cellPause tag c.val) s = .next (State.answered tag .cellPause (okWith (.paused x.state x.pause))
        (setWaiting c x.waits
          (if stops then raise (.cellState c (s.cell c).state .paused x.pause x.fault) ((sendFrame c .pause s).setCell c x)
            else s.setCell c x))))
    ∧ ((s.cell c).linkUp = false →
      exec (.jam c) s = .next (settleHost (modPort c (fun p => { p with rx := Receiver.between }) s)))
    ∧ ∀ (x : Cell) (u : State), (s.cell c).linkUp →
      x = { s.cell c with
        pause := { (s.cell c).pause with jam := true }
        state := if stops then .paused else (s.cell c).state
        soakTimer := if stops && (s.cell c).state == .soaking then none else (s.cell c).soakTimer
        dwellTimer := if stops && (s.cell c).state == .soaking then none else (s.cell c).dwellTimer } →
      u = modPort c (fun p => if p.queue = [] then { p with arrival := 0, group := [], groupCount := 0 }
        else { p with arrival := 0, queue := markTail .jamFollows p.queue }) (s.heard c) →
      exec (.jam c) s = .next (settleHost
        (setWaiting c x.waits
          (if stops then raise (.cellState c (s.cell c).state .paused x.pause x.fault) ((sendFrame c .pause u).setCell c x)
            else u.setCell c x)))

/-- CELL-RESUME and JAM-CLEAR take their reason out of the pause-reason set (R53, R55, R56): an absent reason changes nothing;
while another stays, only the set changes; and when the set becomes empty a PAUSED cell whose run has tested units is sent RESUME
and is RUNNING, one whose run has tested none soaks again, one whose run has not started makes its setup check (R49): RESERVED for
another kit, with its CHANGEOVER report, SOAKING with the program loaded, else LOADING, and where the revision is not usable the load has
failed with SUSPENDED (R88; here on a cell with MAINTENANCE-DUE, which takes no new work); an IDLE cell may wait for work, and a cell in
no pausing state only loses the reason. No lot waits for work here, so an offer round does nothing. -/
def Obligations.RemovedReasonsResumeTheCell : Prop :=
  ∀ (s u : State) (c : CellId) (r : PauseReason) (command : Instr) (done : State → State), s.waitList = [] →
    (r = .operator ∧ (s.cell c).configured ∧ u = s ∧ (∃ tag, s.takes tag ∧ command = .cellResume tag c.val
        ∧ done = fun t => State.answered tag .cellResume (okWith (.paused (t.cell c).state (t.cell c).pause)) t)
      ∨ r = .jam ∧ (s.cell c).linkUp ∧ u = s.heard c ∧ command = .jamClear c ∧ done = settleHost) →
    ((s.cell c).pause.has r = false → exec command s = .next (done u))
    ∧ ((s.cell c).pause.has r → ((s.cell c).pause.drop r).isEmpty = false
        ∨ (s.cell c).state ≠ .paused ∧ (s.cell c).state ≠ .idle →
      exec command s = .next (done (modCell c (fun x => { x with pause := x.pause.drop r }) u)))
    ∧ (∀ x : Cell, (s.cell c).pause.has r → ((s.cell c).pause.drop r).isEmpty → (s.cell c).state = .idle →
      x = { s.cell c with pause := PauseSet.empty } →
      exec command s = .next (done (setWaiting c x.waits (u.setCell c x))))
    ∧ (∀ x : Cell, (s.cell c).pause.has r → ((s.cell c).pause.drop r).isEmpty → (s.cell c).state = .paused →
      (s.cell c).runStarted → (s.cell c).runTested ≠ 0 → x = { s.cell c with pause := PauseSet.empty, state := .running } →
      exec command s = .next (done (setWaiting c x.waits
        (raise (.cellState c .paused .running PauseSet.empty x.fault) ((sendFrame c .resume u).setCell c x)))))
    ∧ (∀ (x : Cell) w, (s.cell c).pause.has r → ((s.cell c).pause.drop r).isEmpty → (s.cell c).state = .paused →
      (s.cell c).runStarted → (s.cell c).runTested = 0 → s.currentWork c = some w →
      x = { s.cell c with
        pause := PauseSet.empty, state := .soaking, soakTimer := some w.2.2.2.soakTimeout, dwellTimer := none } →
      exec command s = .next (done
        (raise (.cellState c .paused .soaking PauseSet.empty x.fault) ((sendFrame c (.soak w.2.2.2.tempClass) u).setCell c x))))
    ∧ ∀ (x : Cell) ref l p st, (s.cell c).pause.has r → ((s.cell c).pause.drop r).isEmpty → (s.cell c).state = .paused →
      (s.cell c).runStarted = false → s.currentWork c = some (ref, l, p, st) → x = { s.cell c with pause := PauseSet.empty } →
      ((s.cell c).kit ≠ some st.kit → exec command s = .next (done
        (raise (.changeover c l.id p.number st.kit x.kit)
          (raise (.cellState c .paused .reserved x.pause x.fault) (u.setCell c { x with state := .reserved })))))
      ∧ ((s.cell c).kit = some st.kit → (s.cell c).program = p.revision.map (fun r => ⟨st.program, r⟩) →
        exec command s = .next (done (raise (.cellState c .paused .soaking x.pause x.fault)
          ((sendFrame c (.soak st.tempClass) u).setCell c
            { x with state := .soaking, soakTimer := some st.soakTimeout, dwellTimer := none }))))
      ∧ ∀ v, (s.cell c).kit = some st.kit → p.revision = some v → (s.cell c).program ≠ some ⟨st.program, v⟩ →
        (∀ e, s.entry st.program v = some e → e.state = .approved → ∃ t, exec command s = .next t
          ∧ t.cell c = { x with state := .loading } ∧ (t.load c).state = .wanting ∧ (t.load c).program = some ⟨st.program, v⟩
          ∧ (t.load c).length = e.length ∧ t.lots = s.lots ∧ t.catalog = s.catalog ∧ t.waitList = s.waitList)
        ∧ (s.approved st.program v = false → s.noCellWaits → (s.cell c).maintenanceDue → (s.cell c).loadFailures < 3 → 0 < p.r →
          l.state ≠ .scrapping → ∃ t, exec command s = .next t ∧ (t.load c).state = .failed ∧ (t.load c).error = some .suspended
          ∧ t.cell c = { x with state := .idle, cleared := true, program := none, current := none }
          ∧ ((t.lot ref.lot).bind fun l => l.portion ref.portion) = some { p with state := .queued } ∧ t.hasEntry ref.lot)

/-- CELL-DOWN is refused for an OFFLINE or DOWN cell; an IDLE cell is DOWN at once with fault code none, its pause reasons as they were;
one whose run has not started is DOWN with fault code none, without HOLD and with its timers stopped (assumption 22), and, while no cell
waits, its portion leaves the slot QUEUED with its lot in the wait list and its load, where one is active, is FAILED with ABORTED, its
buffers free (R25, R71, R101, R102); a cell whose run has started is DRAINING, one that drains or purges goes on, and each of these will
be DOWN after its purge (R60). CELL-UP is taken in DOWN alone: PURGING on an UP link, else OFFLINE, with fault code, load failures,
down-after-purge and run started cleared (R61). -/
def Obligations.CellsGoOutOfServiceAndReturn : Prop :=
  ∀ (tag : BitVec 16) (s : State) (c : CellId), s.takes tag → (s.cell c).configured →
    ((s.cell c).state = .offline ∨ (s.cell c).state = .down →
      exec (.cellDown tag c.val) s = .next (s.answered tag .cellDown (refusedFor .wrongState)))
    ∧ ((s.cell c).state = .idle → (s.cell c).pendingSlot = none →
      exec (.cellDown tag c.val) s = .next (State.answered tag .cellDown (okWith (.cellState .down))
        (setWaiting c false (raise (.cellState c .idle .down (s.cell c).pause .none)
          (modCell c (fun x => { x with state := .down, fault := .none }) s)))))
    ∧ ((s.cell c).state = .reserved ∨ (s.cell c).state = .loading
        ∨ ((s.cell c).state = .soaking ∨ (s.cell c).state = .paused) ∧ (s.cell c).runStarted = false →
      ∃ t, exec (.cellDown tag c.val) s = .next t
        ∧ t.host.replies = s.host.replies ++ [.full tag (.request .cellDown) (okWith (.cellState .down))]
        ∧ (t.cell c).state = .down ∧ (t.cell c).fault = .none ∧ (t.cell c).pause.hold = false ∧ (t.cell c).soakTimer = none
        ∧ (t.cell c).dwellTimer = none ∧ t.waiting.get c = false ∧ t.catalog = s.catalog ∧ t.tickets = s.tickets
        ∧ ∀ ref l p, s.noCellWaits → (s.cell c).pendingSlot = none → (s.cell c).current = some ref → s.lot ref.lot = some l →
          l.portion ref.portion = some p → l.state ≠ .scrapping → 0 < p.r →
          (t.cell c).current = none
          ∧ ((s.load c).active → (t.load c).state = .failed ∧ (t.load c).error = some .aborted ∧ (t.load c).wants = []
            ∧ (t.load c).inFlight = [] ∧ t.bufferWaiting.get c = false ∧ t.holdsNoBuffer c
            ∧ ((∀ d, d ≠ c → s.bufferWaiting.get d = false) → t.buffers = s.buffers.map (Buffer.freedFrom c)))
          ∧ ((t.lot ref.lot).bind fun l => l.portion ref.portion) = some { p with state := .queued } ∧ t.hasEntry ref.lot
          ∧ (∀ y, y ≠ ref.lot → t.lot y = s.lot y) ∧ t.tallies = s.tallies)
    ∧ ((s.cell c).state = .running ∨ ((s.cell c).state = .soaking ∨ (s.cell c).state = .paused) ∧ (s.cell c).runStarted →
      (s.cell c).pendingSlot = none →
      exec (.cellDown tag c.val) s = .next (State.answered tag .cellDown (okWith (.cellState .draining))
        (setWaiting c false (raise (.cellState c (s.cell c).state .draining (s.cell c).pause .none)
          (modCell c (fun x => { x with
            state := .draining, downAfterPurge := true, fault := .none, soakTimer := none, dwellTimer := none }) (sendFrame c .stop s))))))
    ∧ ((s.cell c).state = .draining ∨ (s.cell c).state = .purging → (s.cell c).pendingSlot = none →
      exec (.cellDown tag c.val) s = .next (State.answered tag .cellDown (okWith (.cellState (s.cell c).state))
        (setWaiting c false (modCell c (fun x => { x with downAfterPurge := true }) s))))
    ∧ ((s.cell c).state ≠ .down → exec (.cellUp tag c.val) s = .next (s.answered tag .cellUp (refusedFor .wrongState)))
    ∧ ∀ up, up = (fun x : Cell => { x with fault := .none, loadFailures := 0, downAfterPurge := false, runStarted := false }) →
      (s.cell c).state = .down →
      ((s.cell c).linkUp → exec (.cellUp tag c.val) s = .next (State.answered tag .cellUp (okWith (.cellState .purging))
        (raise (.cellState c .down .purging (s.cell c).pause .none)
          (modCell c (fun x => { up x with state := .purging, purgeTimer := some 600 }) (sendFrame c .purge s)))))
      ∧ ((s.cell c).linkUp = false → exec (.cellUp tag c.val) s = .next (State.answered tag .cellUp (okWith (.cellState .offline))
        (raise (.cellState c .down .offline (s.cell c).pause .none) (modCell c (fun x => { up x with state := .offline }) s))))

/-- CELL-CLEAR of a cell without an active load and without a pending portion (R63): timers stopped, the port's intake discarded but for
its production-arrived flag (R121; assumption 31), program and switched-off sites gone, counts at 0, JAM gone. An online cell, empty or
with its run started, is sent ABORT and PURGE and is PURGING with its timer at 600 s; an empty OFFLINE cell loses HOLD and run started; an
empty DOWN cell stays as it is. And with work, while no cell waits: an active load ends FAILED with ABORTED, of a LOADING cell with its
portion as of any other, and its buffers are free (R101, R102); a pending portion is QUEUED and its slot empty; a portion of an online
cell whose run has not started leaves the slot QUEUED, and HOLD with it, one whose run has started stays for the purge; a portion stranded
on an OFFLINE cell loses the units of H and leaves, QUEUED, or DONE where it keeps none (here not the last of its pass). A QUEUED
portion's lot has an entry. -/
def Obligations.CellClearAbandonsTheWork : Prop :=
  (∀ (tag : BitVec 16) (s u : State) (c : CellId) (x : Cell), s.takes tag → (s.cell c).configured →
    (s.load c).active = false → (s.cell c).pendingSlot = none →
    x = { s.cell c with
      purgeTimer := none, soakTimer := none, dwellTimer := none, program := none, siteOff := 0, consec := Vector.replicate 8 0
      pause := { (s.cell c).pause with jam := false } } →
    u = modPort c (fun p => { p with
      queue := [], heldRunEnd := none, group := [], groupCount := 0, runOpen := false, arrival := 0 }) s →
    ((s.cell c).linkUp → (s.cell c).state ≠ .down → (s.cell c).runStarted ∨ (s.cell c).current = none → ∀ v,
      v = (sendFrame c .purge (sendFrame c .abort u)).setCell c { x with state := .purging, purgeTimer := some 600 } →
      exec (.cellClear tag c.val) s = .next (State.answered tag .cellClear (okWith (.cellState .purging))
        (setWaiting c false (if (s.cell c).state = .purging then v
          else raise (.cellState c (s.cell c).state .purging x.pause x.fault) v))))
    ∧ ((s.cell c).state = .offline → (s.cell c).linkUp = false → (s.cell c).current = none →
      exec (.cellClear tag c.val) s = .next (State.answered tag .cellClear (okWith (.cellState .offline))
        (setWaiting c false (u.setCell c { x with pause := { x.pause with hold := false }, runStarted := false }))))
    ∧ ((s.cell c).state = .down →
      exec (.cellClear tag c.val) s = .next (State.answered tag .cellClear (okWith (.cellState .down))
        (setWaiting c false (u.setCell c x)))))
  ∧ ∀ (tag : BitVec 16) (s : State) (c : CellId), s.takes tag → (s.cell c).configured → s.noCellWaits →
    ((s.load c).active → (s.cell c).linkUp ∨ (s.cell c).state = .offline ∨ (s.cell c).state = .down → (s.cell c).current = none ∨ (s.cell c).runStarted → (s.cell c).pendingSlot = none →
      (∀ d, d ≠ c → s.bufferWaiting.get d = false) → ∃ t, exec (.cellClear tag c.val) s = .next t
      ∧ (t.load c).state = .failed ∧ (t.load c).error = some .aborted ∧ (t.load c).wants = [] ∧ (t.load c).inFlight = []
      ∧ t.bufferWaiting.get c = false ∧ t.buffers = s.buffers.map (Buffer.freedFrom c) ∧ (t.cell c).program = none)
    ∧ (∀ ref l p, (s.cell c).linkUp → (s.cell c).state ≠ .down → (s.cell c).runStarted ∨ (s.cell c).current = none →
      (s.cell c).pendingSlot = some ref → s.lot ref.lot = some l → l.portion ref.portion = some p →
      ∃ t, exec (.cellClear tag c.val) s = .next t ∧ (t.cell c).state = .purging ∧ (t.cell c).purgeTimer = some 600
      ∧ (t.cell c).pendingSlot = none ∧ (t.cell c).current = (s.cell c).current
      ∧ ((t.lot ref.lot).bind fun l => l.portion ref.portion) = some { p with state := .queued } ∧ t.hasEntry ref.lot
      ∧ (∀ y, y ≠ ref.lot → t.lot y = s.lot y) ∧ t.tallies = s.tallies ∧ t.catalog = s.catalog)
    ∧ (∀ ref l p, (s.cell c).linkUp → (s.cell c).state ≠ .down → (s.cell c).runStarted = false → (s.cell c).pendingSlot = none →
      (s.cell c).current = some ref → s.lot ref.lot = some l → l.portion ref.portion = some p → l.state ≠ .scrapping → 0 < p.r →
      ∃ t, exec (.cellClear tag c.val) s = .next t ∧ (t.cell c).state = .purging ∧ (t.cell c).purgeTimer = some 600
      ∧ (t.cell c).current = none ∧ (t.cell c).program = none ∧ (t.cell c).siteOff = 0
      ∧ (t.cell c).pause = { (s.cell c).pause with jam := false, hold := false }
      ∧ ((s.load c).active → (t.load c).state = .failed ∧ (t.load c).error = some .aborted ∧ (t.load c).wants = []
        ∧ (t.load c).inFlight = [] ∧ t.bufferWaiting.get c = false ∧ t.holdsNoBuffer c
        ∧ ((∀ d, d ≠ c → s.bufferWaiting.get d = false) → t.buffers = s.buffers.map (Buffer.freedFrom c)))
      ∧ ((t.lot ref.lot).bind fun l => l.portion ref.portion) = some { p with state := .queued } ∧ t.hasEntry ref.lot
      ∧ (∀ y, y ≠ ref.lot → t.lot y = s.lot y) ∧ t.tallies = s.tallies ∧ t.catalog = s.catalog)
    ∧ ∀ ref l p, (s.cell c).linkUp = false → (s.cell c).state = .offline → (s.cell c).pendingSlot = none →
      (s.cell c).current = some ref → s.lot ref.lot = some l → l.portion ref.portion = some p → l.state ≠ .scrapping →
      0 < p.r ∨ (∃ q ∈ l.passPortions l.pass, q.number ≠ p.number ∧ q.state ≠ .done) →
      ∃ t, exec (.cellClear tag c.val) s = .next t ∧ (t.cell c).state = .offline ∧ (t.cell c).current = none
      ∧ (t.cell c).runStarted = false ∧ (t.cell c).program = none
      ∧ (t.cell c).pause = { (s.cell c).pause with jam := false, hold := false }
      ∧ ((t.lot ref.lot).bind fun l => l.portion ref.portion) = some { p with
          l := p.l + p.h, h := 0, state := if 0 < p.r then .queued else .done
          endTime := if 0 < p.r then p.endTime else some s.floorTime }
      ∧ (0 < p.r → t.hasEntry ref.lot)
      ∧ (∀ y, y ≠ ref.lot → t.lot y = s.lot y) ∧ t.tallies = s.tallies ∧ t.catalog = s.catalog

/-- CELL-SITES-ON takes the named sites out of the switched-off set and sets the consecutive-fail counts of those that were off to 0; a
named site that was not off keeps its count (R64, R128; assumption 40). Bit k of the field names site k (R186). It is refused while a run
is under way, and for a site above 7, which a field of one byte cannot name, and which is looked at first (assumptions 29 and 46). CELL-CONTACTOR stores the limit clamped, resets the counter where asked, and
sets MAINTENANCE-DUE with its report when it becomes yes (R66). CELL-ERR-RESET answers the six flags and clears them (R116). No
lot waits for work here, so an offer round does nothing. -/
def Obligations.SitesContactorAndFlagsAreSet : Prop :=
  ∀ (tag : BitVec 16) (s : State) (c : CellId), s.takes tag → (s.cell c).configured → s.waitList = [] →
    (∀ (sites : Nat) (busy : Bool), sites ≤ 255 →
      busy = ((s.cell c).state == .running || (s.cell c).state == .draining
        || (((s.cell c).state == .soaking || (s.cell c).state == .paused) && (s.cell c).runStarted)) →
      (busy = true → exec (.cellSitesOn tag c.val sites) s = .next (s.answered tag .cellSitesOn (refusedFor .wrongState)))
      ∧ (busy = false → ∃ off consec,
        exec (.cellSitesOn tag c.val sites) s
          = .next (State.answered tag .cellSitesOn (okWith (.sites (Cell.enabled { s.cell c with siteOff := off })))
            (modCell c (fun x => { x with siteOff := off, consec := consec }) s))
        ∧ ∀ k : Fin 8, SiteSet.has off k.val = (SiteSet.has (s.cell c).siteOff k.val && !sites.testBit k.val)
          ∧ consec.get k = (if sites.testBit k.val ∧ SiteSet.has (s.cell c).siteOff k.val then 0 else (s.cell c).consec.get k)))
    ∧ (∀ (sites k : Nat), sites.testBit k → 7 < k →
      exec (.cellSitesOn tag c.val sites) s = .next (s.answered tag .cellSitesOn (refusedFor .badField)))
    ∧ (∀ (limit : Option Nat) (reset : Bool) (x : Cell) (u : State), (s.cell c).pendingSlot = none →
      x = { s.cell c with
        contactorLimit := (match limit with
          | none => (s.cell c).contactorLimit
          | some 0 => 0
          | some n => max 1000 (min 4000000000 n))
        lifetime := if reset then 0 else (s.cell c).lifetime
        maintenanceDue := Cell.due { s.cell c with
          contactorLimit := (match limit with
            | none => (s.cell c).contactorLimit
            | some 0 => 0
            | some n => max 1000 (min 4000000000 n))
          lifetime := if reset then 0 else (s.cell c).lifetime } } →
      u = setWaiting c x.waits (s.setCell c x) →
      exec (.cellContactor tag c.val limit reset) s
        = .next (State.answered tag .cellContactor (okWith (.contactor x.contactorLimit x.lifetime x.maintenanceDue))
          (if x.maintenanceDue && !(s.cell c).maintenanceDue then raise (.maintenance c x.lifetime x.contactorLimit) u else u)))
    ∧ exec (.cellErrReset tag c.val) s = .next (State.answered tag .cellErrReset (okWith (.flags (s.port c).flags))
        (modPort c (fun p => { p with flags := ⟨false, false, false, false, false, false⟩ }) s))

/-! ### Station frames -/

/-- HELLO (R45, R108, R113): a malformed one (a field with an unused bit or out of its range, R186) and one from the wrong station are
only reported; on an OFFLINE cell it brings the
link up with the station's capability and kit, no program, PURGE and a purge timer of 600 s, and the cell is PURGING; a DOWN cell
takes it and stays DOWN, and nothing is sent; in any other state the cell ends in PURGING too. -/
def Obligations.HelloBringsTheLinkUp : Prop :=
  ∀ (s u : State) (c : CellId) (name station : Text) (sites : Nat) (classes : ClassSet) (kit : Text) (takes : Cell → Cell)
      (good : Prop), station = name.takeWhile (· ≠ 0) →
    u = modPort c (fun p => { p with rx := Receiver.between, silence := if (s.cell c).linkUp then some 6 else p.silence }) s →
    takes = (fun x => { x with
      siteCount := some sites, classes := some classes, kit := if kit = [] then none else some kit, program := none, linkUp := true }) →
    good = (readFixedText name = .value station ∧ station.length ≤ 16 ∧ (sites = 1 ∨ sites = 2 ∨ sites = 4 ∨ sites = 8) ∧ classes ≠ 0 ∧ classes.toNat ≤ 7
      ∧ (kit = [] ∨ validKit kit)) →
    (¬ good → exec (.hello c name sites classes kit) s
      = .next (settleHost (raise (.linkError c (.malformed (controlKindByte .hello))) u)))
    ∧ (good → (s.cell c).configured = false ∨ (s.cell c).stationName ≠ some station →
      exec (.hello c name sites classes kit) s = .next (settleHost (raise (.linkError c .wrongStation) u)))
    ∧ (good → (s.cell c).configured → (s.cell c).stationName = some station →
      ((s.cell c).state = .offline → exec (.hello c name sites classes kit) s = .next (settleHost
        (raise (.cellState c .offline .purging (s.cell c).pause (s.cell c).fault)
          (modCell c (fun x => { x with state := .purging, purgeTimer := some 600 })
            (sendFrame c .purge (modCell c takes (s.heard c)))))))
      ∧ ((s.cell c).state = .down →
        exec (.hello c name sites classes kit) s = .next (settleHost (modCell c takes (s.heard c))))
      ∧ ((s.cell c).state ≠ .offline → (s.cell c).state ≠ .down → ∃ t, exec (.hello c name sites classes kit) s = .next t
        ∧ (t.cell c).state = .purging ∧ (t.cell c).purgeTimer = some 600 ∧ (t.cell c).linkUp ∧ (t.cell c).siteCount = some sites
        ∧ (t.cell c).classes = some classes ∧ (t.cell c).kit = (if kit = [] then none else some kit) ∧ (t.cell c).program = none
        ∧ (t.port c).silence = some 6 ∧ t.catalog = s.catalog ∧ t.tickets = s.tickets))

/-- KIT on an UP link (R49, R52): the installed kit is stored in every state. A RESERVED cell with the wanted kit goes on to
PAUSED, SOAKING or LOADING; a soak whose run has not started and whose kit is lost goes back to RESERVED with a CHANGEOVER report;
a run whose kit is lost drains; in every other case nothing else changes (an IDLE cell whose kit changes asks for an offer, and
here no lot waits). A malformed KIT is only reported (R108), and on a DOWN link a KIT is discarded, malformed or not (R108, R109). -/
def Obligations.KitFramesActByState : Prop :=
  (∀ (s : State) (c : CellId) (code : Text),
    ((s.cell c).linkUp → validKit code = false →
      exec (.kit c code) s = .next (settleHost (raise (.linkError c (.malformed (controlKindByte .kit))) (s.heard c))))
    ∧ ((s.cell c).linkUp = false →
      exec (.kit c code) s = .next (settleHost (modPort c (fun p => { p with rx := Receiver.between }) s))))
  ∧ ∀ (s u : State) (c : CellId) (code : Text) (x : Cell) (wanted : Prop), (s.cell c).linkUp → validKit code →
    x = { s.cell c with kit := some code } → u = (s.heard c).setCell c x →
    wanted = (s.wantedKit c = some code) →
    ((s.cell c).state ∈ [.loading, .purging, .draining, .down, .offline] ∨ (s.cell c).state = .paused ∧ (s.cell c).runStarted = false
        ∨ (s.cell c).state ∈ [.running, .soaking, .paused] ∧ wanted ∨ (s.cell c).state = .reserved ∧ ¬ wanted
        ∨ (s.cell c).state = .idle ∧ s.waitList = [] →
      exec (.kit c code) s = .next (settleHost u))
    ∧ ((s.cell c).state = .running ∨ ((s.cell c).state = .soaking ∨ (s.cell c).state = .paused) ∧ (s.cell c).runStarted →
      ¬ wanted → (s.cell c).pendingSlot = none →
      exec (.kit c code) s = .next (settleHost (setWaiting c false
        (raise (.cellState c (s.cell c).state .draining x.pause x.fault)
          ((sendFrame c .stop u).setCell c { x with state := .draining, soakTimer := none, dwellTimer := none })))))
    ∧ ∀ ref l p st, s.currentWork c = some (ref, l, p, st) →
      ((s.cell c).state = .soaking → (s.cell c).runStarted = false → st.kit ≠ code →
        exec (.kit c code) s = .next (settleHost (raise (.changeover c l.id p.number st.kit (some code))
          (raise (.cellState c .soaking .reserved x.pause x.fault)
            (u.setCell c { x with state := .reserved, soakTimer := none, dwellTimer := none })))))
      ∧ ((s.cell c).state = .reserved → st.kit = code → (s.cell c).pause.isEmpty = false →
        exec (.kit c code) s = .next (settleHost (raise (.cellState c .reserved .paused x.pause x.fault)
          (u.setCell c { x with state := .paused }))))
      ∧ ((s.cell c).state = .reserved → st.kit = code → (s.cell c).pause.isEmpty →
        (s.cell c).program = p.revision.map (fun r => ⟨st.program, r⟩) →
        exec (.kit c code) s = .next (settleHost (raise (.cellState c .reserved .soaking x.pause x.fault)
          ((sendFrame c (.soak st.tempClass) u).setCell c
            { x with state := .soaking, soakTimer := some st.soakTimeout, dwellTimer := none }))))
      ∧ ∀ r e, (s.cell c).state = .reserved → st.kit = code → (s.cell c).pause.isEmpty → p.revision = some r →
        (s.cell c).program ≠ some ⟨st.program, r⟩ → s.entry st.program r = some e → e.state = .approved →
        ∃ t, exec (.kit c code) s = .next t ∧ (t.cell c).state = .loading ∧ (t.cell c).kit = some code
          ∧ (t.load c).state = .wanting ∧ (t.load c).program = some ⟨st.program, r⟩ ∧ (t.load c).length = e.length
          ∧ (t.load c).catalogCheck = some e.check ∧ (t.load c).relayed = 0 ∧ (t.load c).crc = 0xFFFFFFFF
          ∧ t.lots = s.lots ∧ t.catalog = s.catalog ∧ t.waitList = s.waitList ∧ t.waiting = s.waiting

/-- PURGED in PURGING (R25, R46, R47): the cell's run is settled and the cell IDLE and cleared, or DOWN where its purge was to end there;
in any other state it is discarded. Of a portion that keeps units F go back to R, the rest of H to L, and it is QUEUED; a count above H
counts as H and raises a COUNT hold (R25). A portion that keeps none is DONE at the floor time, and the pass completes where it was the
last (R26); one of a SCRAPPING lot is DONE with its units lost, and the lot SCRAPPED where no other is at a cell (R35). The pending
portion of a cell that comes to IDLE moves to the current slot, AT-CELL, and the cell soaks, when the cell has no pause reason and no
MAINTENANCE-DUE, the lot no hold, kit and program are the portion's, its revision is usable and enough sites are on; here, where the
cell takes no work, it returns to QUEUED instead. The purge timer's expiry sends a cell without a pending portion DOWN with fault code
PURGE, not cleared; H goes to L, its portion leaves the slot, and goes the same ways. While no cell waits for work; a cell that becomes
IDLE without a move is here one that a pause or MAINTENANCE-DUE keeps from work, and where the rest of the lot is named the lot has no
other portion in a slot. An expiry without a running timer does nothing (assumption 9). -/
def Obligations.PurgesEndTheRun : Prop :=
  ∀ (s : State) (c : CellId) (kept rests : Prop) (ends : CellState),
    kept = ((s.cell c).pause.jam ∨ (s.cell c).pause.operator ∨ (s.cell c).maintenanceDue) →
    rests = ((s.cell c).downAfterPurge ∨ kept ∧ (s.cell c).pendingSlot = none) →
    ends = (if (s.cell c).downAfterPurge then .down else .idle) →
    ((s.cell c).linkUp → (s.cell c).state ≠ .purging → ∀ n, exec (.purged c n) s = .next (settleHost (s.heard c)))
    ∧ (∀ n (x : Cell), (s.cell c).linkUp → (s.cell c).state = .purging → (s.cell c).current = none → (s.cell c).pendingSlot = none →
      s.waitList = [] →
      x = { s.cell c with
        purgeTimer := none, pause := { (s.cell c).pause with hold := false }, runStarted := false, cleared := true
        downAfterPurge := false, state := ends } →
      exec (.purged c n) s = .next (settleHost (setWaiting c x.waits
        (raise (.cellState c .purging x.state x.pause x.fault) ((s.heard c).setCell c x)))))
    ∧ (∀ (n : BitVec 16) ref l p, (s.cell c).linkUp → (s.cell c).state = .purging → rests →
      (s.cell c).current = some ref → s.lot ref.lot = some l → l.portion ref.portion = some p → l.state ≠ .scrapping →
      n.toNat ≤ p.h → 0 < p.r + n.toNat → s.noCellWaits →
      ∃ t, exec (.purged c n) s = .next t ∧ (t.cell c).state = ends ∧ (t.cell c).current = none ∧ (t.cell c).cleared
        ∧ (t.cell c).runStarted = false ∧ (t.cell c).purgeTimer = none ∧ (t.cell c).pause.hold = false
        ∧ ((t.lot ref.lot).bind fun l => l.portion ref.portion)
          = some { p with r := p.r + n.toNat, l := p.l + (p.h - n.toNat), h := 0, state := .queued }
        ∧ (∀ y, y ≠ ref.lot → t.lot y = s.lot y) ∧ t.hasEntry ref.lot ∧ t.tallies = s.tallies ∧ t.catalog = s.catalog
        ∧ t.products = s.products)
    ∧ (∀ (n : BitVec 16) nx l2 p2 st2 v, (s.cell c).linkUp → (s.cell c).state = .purging → (s.cell c).downAfterPurge = false →
      (s.cell c).pendingSlot = some nx → s.work nx = some (l2, p2, st2) → p2.revision = some v → s.noCellWaits →
      (∀ ref, (s.cell c).current = some ref → nx ≠ ref ∧ ∃ l p, s.lot ref.lot = some l ∧ l.portion ref.portion = some p
        ∧ l.state ≠ .scrapping ∧ n.toNat ≤ p.h ∧ 0 < p.r + n.toNat) →
      ∀ x, x = { s.cell c with
          purgeTimer := none, pause := { (s.cell c).pause with hold := false }, runStarted := false, pendingSlot := none } →
      (¬ kept → l2.holds = [] → (s.cell c).kit = some st2.kit → (s.cell c).program = some ⟨st2.program, v⟩ →
        s.approved st2.program v → st2.minSites ≤ SiteSet.size (s.cell c).enabled → ∃ t, exec (.purged c n) s = .next t
        ∧ t.cell c = { x with
          current := some nx, state := .soaking, soakTimer := some st2.soakTimeout, dwellTimer := none, cleared := false }
        ∧ ((t.lot nx.lot).bind fun l => l.portion nx.portion) = some { p2 with state := .atCell c }
        ∧ ((s.port c).tx = none → (s.port c).txList = [] → (t.port c).tx = some (.soak st2.tempClass)))
      ∧ (kept → ∃ t, exec (.purged c n) s = .next t
        ∧ t.cell c = { x with current := none, state := .idle, cleared := true }
        ∧ ((t.lot nx.lot).bind fun l => l.portion nx.portion) = some { p2 with state := .queued } ∧ t.hasEntry nx.lot)
      ∧ ∀ t ref l p, (kept ∨ (l2.holds = [] ∧ (s.cell c).kit = some st2.kit ∧ (s.cell c).program = some ⟨st2.program, v⟩
          ∧ s.approved st2.program v ∧ st2.minSites ≤ SiteSet.size (s.cell c).enabled)) →
        exec (.purged c n) s = .next t → (s.cell c).current = some ref → s.lot ref.lot = some l → l.portion ref.portion = some p →
        ((t.lot ref.lot).bind fun l => l.portion ref.portion)
          = some { p with r := p.r + n.toNat, l := p.l + (p.h - n.toNat), h := 0, state := .queued }
        ∧ t.hasEntry ref.lot ∧ (∀ y, y ≠ ref.lot → y ≠ nx.lot → t.lot y = s.lot y) ∧ t.tallies = s.tallies ∧ t.catalog = s.catalog)
    ∧ (∀ (n : BitVec 16) ref l p, (s.cell c).linkUp → (s.cell c).state = .purging → rests →
      (s.cell c).current = some ref → s.lot ref.lot = some l → l.portion ref.portion = some p → l.state.direct = false →
      p.state = .atCell c → (l.portions.map (·.number)).Nodup → (∀ q ∈ l.portions, q.number ≠ ref.portion → q.placed = false) →
      p.h < n.toNat → 0 < p.r + p.h → s.noCellWaits →
      ∃ t l', exec (.purged c n) s = .next t ∧ (t.cell c).state = ends ∧ (t.cell c).current = none
        ∧ t.lot ref.lot = some l' ∧ l'.heldFor .count ∧ l'.portion ref.portion = some { p with r := p.r + p.h, h := 0, state := .queued })
    ∧ (∀ (n : BitVec 16) ref l p, (s.cell c).linkUp → (s.cell c).state = .purging → rests →
      (s.cell c).current = some ref → s.lot ref.lot = some l → l.portion ref.portion = some p → l.state = .scrapping → n.toNat ≤ p.h →
      ∃ t l', exec (.purged c n) s = .next t ∧ (t.cell c).state = ends ∧ (t.cell c).current = none ∧ t.lot ref.lot = some l'
        ∧ l'.portion ref.portion = some { p with
            r := 0, l := p.l + (p.h - n.toNat) + (p.r + n.toNat), h := 0, state := .done, endTime := some s.floorTime }
        ∧ ((∀ q ∈ l.portions, q.number ≠ ref.portion → q.atCell = false) → l'.state = .scrapped))
    ∧ (∀ ref l p v w command, (s.cell c).state = .purging → (s.cell c).current = some ref → s.lot ref.lot = some l →
      l.portion ref.portion = some p → l.state ≠ .scrapping → p.r = 0 →
      (∀ q ∈ l.portions, q.number ≠ ref.portion → q.placed = false) → s.noCellWaits →
      command = .purged c 0 ∧ (s.cell c).linkUp ∧ rests
          ∧ v = modPortion ref (fun q => { q with state := .done, endTime := some s.floorTime })
            (modCell c (fun x => { x with current := none }) (modPortion ref (settlePurged 0)
              (modCell c (fun x => { x with purgeTimer := none }) (s.heard c))))
        ∨ command = .purgeTimeout c ∧ (s.cell c).purgeTimer ≠ none
          ∧ (s.cell c).pendingSlot = none ∧ v = modPortion ref (fun q => { q with state := .done, endTime := some s.floorTime })
            (modCell c (fun x => { x with current := none }) (modPortion ref settleLost
              (modCell c (fun x => { x with purgeTimer := none }) s))) →
      (∀ l', v.lot ref.lot = some l' →
        w = if l'.passComplete then completePass offerRound ref.lot ref.portion v else refreshLot ref.lot v) →
      ∃ t, exec command s = .next t ∧ (t.cell c).state = (if command = .purgeTimeout c then .down else ends)
        ∧ t.lots = w.lots ∧ t.tallies = w.tallies ∧ t.summaries = w.summaries
        ∧ t.checkMarks = w.checkMarks ∧ t.waitList = w.waitList ∧ t.ships = w.ships ∧ t.products = w.products)
    ∧ (∀ ref l p, (s.cell c).state = .purging → (s.cell c).purgeTimer ≠ none → (s.cell c).current = some ref →
      (s.cell c).pendingSlot = none → s.lot ref.lot = some l → l.portion ref.portion = some p → l.state ≠ .scrapping → 0 < p.r →
      s.noCellWaits →
      ∃ t, exec (.purgeTimeout c) s = .next t ∧ (t.cell c).state = .down ∧ (t.cell c).fault = .purge ∧ (t.cell c).current = none
        ∧ (t.cell c).cleared = false ∧ (t.cell c).runStarted = false ∧ (t.cell c).purgeTimer = none ∧ (t.cell c).pause.hold = false
        ∧ ((t.lot ref.lot).bind fun l => l.portion ref.portion) = some { p with l := p.l + p.h, h := 0, state := .queued }
        ∧ (∀ y, y ≠ ref.lot → t.lot y = s.lot y) ∧ t.hasEntry ref.lot ∧ t.tallies = s.tallies ∧ t.catalog = s.catalog
        ∧ t.products = s.products)
    ∧ (¬ ((s.cell c).state = .purging ∧ (s.cell c).purgeTimer ≠ none) → exec (.purgeTimeout c) s = .next (settleHost s))
    ∧ ((s.cell c).state = .purging → (s.cell c).purgeTimer ≠ none → (s.cell c).current = none → (s.cell c).pendingSlot = none → ∀ x,
      x = { s.cell c with
        purgeTimer := none, pause := { (s.cell c).pause with hold := false }, runStarted := false, cleared := false
        downAfterPurge := false, fault := .purge, state := .down } →
      exec (.purgeTimeout c) s = .next (settleHost (setWaiting c false
        (raise (.cellState c .purging .down x.pause .purge) (s.setCell c x)))))

/-- The soak (R24, R50, R112, R119, R126, R128): SOAK-REACHED with the soak timer running starts the dwell timer at the step's
dwell, and a dwell of 0 ends at once; with the dwell running, or out of SOAKING, it is discarded. The dwell's expiry sends START
with the portion's R as quantity and its next run number, R moves into H (which is 0 then, R49; units that it holds in a state only a
composed record leads to stay in it, assumption 43), the port's run is open and every count of the run is 0;
for a run already started it sends RESUME. START leaves the port's production-arrived flag clear and
every clearing of the intake leaves it (assumption 31). The soak timer's expiry aborts: DOWN with fault code SOAK, through a purge, with
its timer at 600 s, where the run has started (assumption 17); where it has not, while no cell waits, the portion leaves the slot QUEUED
with its lot in the wait list (R25, R71). An expiry without a running timer does nothing (assumption 9). But for that last case no lot
waits for work here, so an offer round does nothing. -/
def Obligations.SoakAndDwellLeadToTheRun : Prop :=
  (∀ (s : State) (c : CellId), s.waitList = [] →
    ((s.cell c).linkUp → ¬ ((s.cell c).state = .soaking ∧ (s.cell c).soakTimer ≠ none) →
      exec (.soakReached c) s = .next (settleHost (s.heard c)))
    ∧ (∀ ref l p st x, (s.cell c).linkUp → (s.cell c).state = .soaking → (s.cell c).soakTimer ≠ none →
      s.currentWork c = some (ref, l, p, st) → x = { s.cell c with soakTimer := none, dwellTimer := some st.dwell } →
      exec (.soakReached c) s = (if st.dwell = 0 then exec (.dwellExpiry c) ((s.heard c).setCell c x)
        else .next (settleHost ((s.heard c).setCell c x))))
    ∧ (¬ ((s.cell c).state = .soaking ∧ (s.cell c).dwellTimer ≠ none) → exec (.dwellExpiry c) s = .next (settleHost s))
    ∧ (∀ ref l p st x, (s.cell c).state = .soaking → (s.cell c).dwellTimer ≠ none → (s.cell c).runStarted = false →
      s.currentWork c = some (ref, l, p, st) →
      x = { s.cell c with
        state := .running, runStarted := true, runTested := 0, consec := Vector.replicate 8 0, dwellTimer := none } →
      exec (.dwellExpiry c) s = .next (settleHost (setWaiting c x.waits (setRunGroups c 0
        (raise (.cellState c .soaking .running x.pause x.fault)
          ((sendFrame c (.start l.id l.stepIndex p.number (p.h + p.r) (s.cell c).enabled (satInc 255 p.runCount))
            (modPort c (fun p => { p with
                runOpen := true, productionArrived := false, arrival := 0, lastTouchdown := none, resultCheck := 0xFFFF })
              (modPortion ref (fun p => { p with h := p.h + p.r, r := 0, runCount := satInc 255 p.runCount }) s))).setCell c x))))))
    ∧ (∀ x, (s.cell c).state = .soaking → (s.cell c).dwellTimer ≠ none → (s.cell c).runStarted →
      x = { s.cell c with state := .running, dwellTimer := none } →
      exec (.dwellExpiry c) s = .next (settleHost (setWaiting c x.waits
        (raise (.cellState c .soaking .running x.pause x.fault) ((sendFrame c .resume s).setCell c x)))))
    ∧ (¬ ((s.cell c).state = .soaking ∧ (s.cell c).soakTimer ≠ none) → exec (.soakTimeout c) s = .next (settleHost s))
    ∧ (∀ x, (s.cell c).state = .soaking → (s.cell c).soakTimer ≠ none → (s.cell c).runStarted → (s.cell c).pendingSlot = none →
      x = { s.cell c with soakTimer := none, fault := .soak, downAfterPurge := true, purgeTimer := some 600, state := .purging } →
      exec (.soakTimeout c) s = .next (settleHost (setWaiting c false (raise (.cellState c .soaking .purging x.pause .soak)
        ((sendFrame c .purge (sendFrame c .abort (modPort c (fun p => { p with
          queue := [], heldRunEnd := none, group := [], groupCount := 0, runOpen := false, arrival := 0 }) s))).setCell c x)))))
    ∧ ((s.cell c).state = .soaking → (s.cell c).soakTimer ≠ none → (s.cell c).runStarted = false →
      ∃ t, exec (.soakTimeout c) s = .next t ∧ (t.cell c).state = .down ∧ (t.cell c).fault = .soak ∧ (t.cell c).pause.hold = false
        ∧ t.waiting.get c = false ∧ t.catalog = s.catalog ∧ t.tickets = s.tickets))
  ∧ ∀ (s : State) (c : CellId) (ref : PortionRef) (l : Lot) (p : Portion), s.noCellWaits → (s.cell c).state = .soaking →
    (s.cell c).soakTimer ≠ none → (s.cell c).runStarted = false → (s.cell c).pendingSlot = none → (s.cell c).current = some ref →
    s.lot ref.lot = some l → l.portion ref.portion = some p → l.state ≠ .scrapping → 0 < p.r →
    ∃ t, exec (.soakTimeout c) s = .next t ∧ (t.cell c).state = .down ∧ (t.cell c).fault = .soak
      ∧ (t.cell c).pause = { (s.cell c).pause with hold := false } ∧ (t.cell c).current = none
      ∧ ((t.lot ref.lot).bind fun l => l.portion ref.portion) = some { p with state := .queued } ∧ t.hasEntry ref.lot
      ∧ (∀ y, y ≠ ref.lot → t.lot y = s.lot y) ∧ t.tallies = s.tallies

/-- Results arrive (R108, R111, R112, R116): a SITE-RESULT or GROUP-END on an UP link joins the intake queue with the first status
of R111's table that applies, and the port's arrival group and production-arrived flag follow; at 16 records it is dropped and
OVERRUN latches, with a report when the flag was clear; on a DOWN link it is discarded. A body
of another length than its kind's is MALFORMED (R108); its record holds 0 where the body has no field, and the OVERRUN report of one too
short to hold a touchdown number carries a free value (assumption 3). That a dropped result leaves the arrival group and the
production-arrived flag is the model's reading (assumption 16). -/
def Obligations.ResultsJoinTheIntakeQueue : Prop :=
  ∀ (s : State) (c : CellId) (td : BitVec 16) (a b flags : Byte),
    (∀ st, (s.cell c).linkUp → (s.port c).queue.length < 16 →
      st = (if 7 < a.toNat ∨ b.toNat = 0 ∨ 16 < b.toNat ∨ 1 < flags.toNat then .malformed
        else if (s.port c).runOpen = false then .stray
        else if flags = 1 ∧ (s.port c).productionArrived then .setupLate
        else if (∀ n, (s.cell c).siteCount = some n → n ≤ a.toNat) ∨ SiteSet.has (s.cell c).siteOff a.toNat then .siteBad
        else if SiteSet.has (s.port c).arrival a.toNat then .dupSite
        else RecordStatus.ok) →
      exec (.siteResult c (siteResultBody td a b flags)) s = .next (settleHost (modPort c (fun p => { p with
        queue := p.queue ++ [⟨.siteResult, td, a, b, flags, st, []⟩]
        arrival := if st ∈ [.ok, .siteBad, .setupLate] then SiteSet.add p.arrival a.toNat else p.arrival }) (s.heard c))))
    ∧ (∀ st, (s.cell c).linkUp → (s.port c).queue.length < 16 →
      st = (if a.toNat = 0 ∨ 8 < a.toNat ∨ 1 < flags.toNat then .malformed
        else if (s.port c).runOpen = false then .stray
        else if flags = 1 ∧ (s.port c).productionArrived then .setupLate
        else RecordStatus.ok) →
      exec (.groupEnd c (groupEndBody td a flags)) s = .next (settleHost (modPort c (fun p => { p with
        queue := p.queue ++ [⟨.groupEnd, td, a, 0, flags, st, []⟩]
        productionArrived := p.productionArrived || (p.runOpen && st ≠ .malformed && flags == 0)
        arrival := 0 }) (s.heard c))))
    ∧ (∀ body touchdown, (s.cell c).linkUp → (s.port c).queue.length < 16 →
      touchdown = (match body with | x :: y :: _ => x ++ y | _ => (0 : BitVec 16)) →
      (body.length ≠ 5 → exec (.siteResult c body) s = .next (settleHost (modPort c (fun p => { p with
        queue := p.queue ++ [⟨.siteResult, touchdown, 0, 0, 0, .malformed, []⟩] }) (s.heard c))))
      ∧ (body.length ≠ 4 → exec (.groupEnd c body) s = .next (settleHost (modPort c (fun p => { p with
        queue := p.queue ++ [⟨.groupEnd, touchdown, 0, 0, 0, .malformed, []⟩], arrival := 0 }) (s.heard c)))))
    ∧ (∀ body touchdown u, (s.cell c).linkUp → 16 ≤ (s.port c).queue.length →
      touchdown = (match body with | x :: y :: _ => x ++ y | _ => Config.unreadableTouchdown s.freeTick) →
      u = { modPort c (fun p => { p with flags := { p.flags with overrun := true } }) (s.heard c) with freeTick := s.freeTick + 1 } →
      ∀ command, command = .siteResult c body ∨ command = .groupEnd c body →
      exec command s = .next (settleHost (if (s.port c).flags.overrun then u else raise (.linkError c (.overrun touchdown)) u)))
    ∧ ∀ body, (s.cell c).linkUp = false →
      exec (.siteResult c body) s = .next (settleHost (modPort c (fun p => { p with rx := Receiver.between }) s))
      ∧ exec (.groupEnd c body) s = .next (settleHost (modPort c (fun p => { p with rx := Receiver.between }) s))

/-- RUN-END (R57, R112, R120): discarded unless the port's run is open; with records in the intake queue it closes the run and is
held behind the record at the tail; with none it is handed on at once: a partial group is discarded, and counts one damaged group of the
portion unless every record of it is a setup one (of more than eight, those kept decide, assumption 23); where the station's figures
agree the cell of a started run is sent PURGE and is PURGING with its timer at 600 s; where they disagree and the lot has no portion in
a pending slot its hold list holds a CHECK record as well. -/
def Obligations.RunEndClosesTheRun : Prop :=
  ∀ (s : State) (c : CellId) (tested check : BitVec 16), (s.cell c).linkUp →
    ((s.port c).runOpen = false → exec (.runEnd c tested check) s = .next (settleHost (s.heard c)))
    ∧ ((s.port c).runOpen → (s.port c).queue ≠ [] →
      exec (.runEnd c tested check) s = .next (settleHost (modPort c (fun p => { p with
        runOpen := false, arrival := 0, heldRunEnd := some ⟨tested, check⟩, queue := markTail .endFollows p.queue }) (s.heard c))))
    ∧ ∀ ref (damaged : Bool), (s.port c).runOpen → (s.port c).queue = [] → (s.cell c).current = some ref →
      damaged = ((s.port c).groupCount != 0 && !(s.port c).group.all fun q => q.status ≠ .malformed && q.flags.getLsbD 0) →
      (s.cell c).state = .running ∨ (s.cell c).state = .draining
        ∨ ((s.cell c).state = .soaking ∨ (s.cell c).state = .paused) ∧ (s.cell c).runStarted →
      (tested.toNat = (s.cell c).runTested → check = (s.port c).resultCheck → ∀ x,
        x = { s.cell c with soakTimer := none, dwellTimer := none, purgeTimer := some 600, state := .purging } →
        exec (.runEnd c tested check) s = .next (settleHost (setWaiting c false
          (raise (.cellState c (s.cell c).state .purging x.pause x.fault)
            ((sendFrame c .purge (modPortion ref
              (fun p => if damaged then { p with damaged := satInc 255 p.damaged } else p) (modPort c (fun p => { p with
                runOpen := false, arrival := 0, heldRunEnd := none, group := [], groupCount := 0 }) (s.heard c)))).setCell c x)))))
      ∧ ∀ l, tested.toNat ≠ (s.cell c).runTested ∨ check ≠ (s.port c).resultCheck → s.lot ref.lot = some l →
        l.state.direct = false → l.pendingCells = [] →
        ∃ t, exec (.runEnd c tested check) s = .next t ∧ (t.cell c).state = .purging ∧ (t.cell c).purgeTimer = some 600
          ∧ (t.port c).runOpen = false ∧ (t.port c).heldRunEnd = none ∧ t.waiting.get c = false
          ∧ (t.port c).group = []
          ∧ (∃ l', t.lot ref.lot = some l' ∧ l'.heldFor .check ∧ l'.route = l.route ∧ l'.portions =
            if damaged then l.portions.map (fun p => if p.number = ref.portion then { p with damaged := satInc 255 p.damaged } else p)
            else l.portions)
          ∧ t.tallies = s.tallies ∧ t.catalog = s.catalog ∧ t.waitList = s.waitList ∧ ∀ y, y ≠ ref.lot → t.lot y = s.lot y

/-- The events of a cell line (R107 to R110, R113): STATUS restarts the silence timer; a malformed control frame is reported, but for one
that is no HELLO on a DOWN link; a break and a silence on an UP link are a link loss with a LINK-ERROR report (R62, R121), which follows
the link loss's own reports (assumption 15) and leaves the frame under way (assumption 13): in full for a cell with empty slots and no
active load, and with work, while no cell waits: a portion whose run has not started leaves the slot QUEUED, and HOLD with it, one whose
run has started, or whose cell purges or drains, stays with its H, the run-started and down-after-purge flags and HOLD as they were, a
pending portion is QUEUED and its slot empty, a QUEUED portion's lot has an entry, and an active load, that of a LOADING cell with its
portion among them, is FAILED with ABORTED, its buffers free and the cell's loaded program none (R71, R101, R102, R103). That an ABORTED
load leaves no program (assumption 39), and that the port keeps its production-arrived flag (assumption 31), are readings; a break on a
DOWN link only sends the receiver hunting, and a silence without its timer does nothing (assumption 9); at the end of a frame the next of
the transmit list goes out. A candidate that fails sends the receiver hunting and the bytes after its sync byte are scanned again (R107);
the command carries bytes as they arrive, taken one after another, which is the model's choice (assumption 21): they follow those of an
open candidate; a byte that is no sync byte sends the receiver hunting; a sync byte opens a candidate, which stays open while more bytes
are needed; at a proved frame, a command of its own, the bytes end. -/
def Obligations.CellLineEvents : Prop :=
  ∀ (s : State) (c : CellId),
    ((s.cell c).linkUp → exec (.status c) s = .next (settleHost (s.heard c))
      ∧ ∀ k, exec (.malformed c k) s = .next (settleHost (raise (.linkError c (.malformed (controlKindByte k))) (s.heard c))))
    ∧ ((s.cell c).linkUp = false → ∀ u, u = modPort c (fun p => { p with rx := Receiver.between }) s →
      exec (.status c) s = .next (settleHost u)
      ∧ (∀ k, k ≠ .hello → exec (.malformed c k) s = .next (settleHost u))
      ∧ exec (.malformed c .hello) s = .next (settleHost (raise (.linkError c (.malformed (controlKindByte .hello))) u))
      ∧ exec (.lineBreak c) s = .next (settleHost (modPort c (fun p => { p with rx := ⟨false, none⟩ }) s))
      ∧ exec (.silence c) s = .next (settleHost s))
    ∧ ((s.port c).silence = none → exec (.silence c) s = .next (settleHost s))
    ∧ (∀ line, line = (fun rx => modPort c (fun p => { p with rx := rx }) s) →
      (∀ cs bytes, (s.port c).rx.candidate = some cs → exec (.cellCandidateFail c bytes) s
          = exec (.cellCandidateFail c (0x5A :: (cs ++ bytes))) (line ⟨(s.port c).rx.inStep, none⟩))
      ∧ ((s.port c).rx.candidate = none →
        exec (.cellCandidateFail c []) s = .next (settleHost s)
        ∧ ∀ bytes : List Byte,
          (∀ b, b ≠ 0x5A → exec (.cellCandidateFail c (b :: bytes)) s = exec (.cellCandidateFail c bytes) (line ⟨false, none⟩))
          ∧ (judgeCell bytes = .incomplete → exec (.cellCandidateFail c (0x5A :: bytes)) s
            = .next (settleHost (line ⟨(s.port c).rx.inStep, some bytes⟩)))
          ∧ (judgeCell bytes = .failed → exec (.cellCandidateFail c (0x5A :: bytes)) s
            = exec (.cellCandidateFail c bytes) (line ⟨false, none⟩))
          ∧ ∀ inner rest, judgeCell bytes = .proved inner rest → exec (.cellCandidateFail c (0x5A :: bytes)) s
            = .next (settleHost (line Receiver.between))))
    ∧ ((s.cell c).linkUp → (s.cell c).current = none → (s.cell c).pendingSlot = none → (s.load c).active = false →
      ∀ x u, x = { s.cell c with
          linkUp := false, purgeTimer := none, soakTimer := none, dwellTimer := none, pause := { (s.cell c).pause with jam := false }
          state := if (s.cell c).state = .down then .down else .offline } →
        u = (modPort c (fun p => { p with
          queue := [], heldRunEnd := none, group := [], groupCount := 0, runOpen := false, arrival := 0
          rx := ⟨false, none⟩, txList := [], silence := none }) s).setCell c x →
      ∀ command cause, command = .lineBreak c ∧ cause = .break ∨ command = .silence c ∧ (s.port c).silence ≠ none ∧ cause = .silence →
      exec command s = .next (settleHost (raise (.linkError c cause) (setWaiting c false
        (if (s.cell c).state = .down ∨ (s.cell c).state = .offline then u
          else raise (.cellState c (s.cell c).state .offline x.pause x.fault) u)))))
    ∧ (∀ command, (s.cell c).linkUp → s.noCellWaits → command = .lineBreak c ∨ command = .silence c ∧ (s.port c).silence ≠ none →
      ∃ t, exec command s = .next t ∧ (t.cell c).linkUp = false
        ∧ (∀ ref l p, (s.cell c).state = .reserved ∨ (s.cell c).state = .loading
            ∨ ((s.cell c).state = .soaking ∨ (s.cell c).state = .paused) →
          (s.cell c).runStarted = false → (s.cell c).pendingSlot = none → (s.cell c).current = some ref → s.lot ref.lot = some l →
          l.portion ref.portion = some p → l.state ≠ .scrapping → 0 < p.r →
          (t.cell c).state = .offline ∧ (t.cell c).current = none ∧ (t.cell c).pause = { (s.cell c).pause with jam := false, hold := false }
          ∧ ((s.load c).active → (t.load c).state = .failed ∧ (t.load c).error = some .aborted ∧ (t.cell c).program = none
            ∧ (t.load c).wants = []
            ∧ (t.load c).inFlight = [] ∧ t.bufferWaiting.get c = false ∧ t.holdsNoBuffer c
            ∧ ((∀ d, d ≠ c → s.bufferWaiting.get d = false) → t.buffers = s.buffers.map (Buffer.freedFrom c)))
          ∧ ((t.lot ref.lot).bind fun l => l.portion ref.portion) = some { p with state := .queued } ∧ t.hasEntry ref.lot
          ∧ (∀ y, y ≠ ref.lot → t.lot y = s.lot y) ∧ t.tallies = s.tallies)
        ∧ ((s.cell c).runStarted ∨ (s.cell c).state = .purging ∨ (s.cell c).state = .draining → (s.cell c).state ≠ .down →
          (t.cell c).state = .offline ∧ (t.cell c).current = (s.cell c).current ∧ (t.cell c).runStarted = (s.cell c).runStarted
          ∧ (t.cell c).downAfterPurge = (s.cell c).downAfterPurge ∧ (t.cell c).pause = { (s.cell c).pause with jam := false }
          ∧ t.tallies = s.tallies ∧ ((s.cell c).pendingSlot = none → t.lots = s.lots ∧ t.waitList = s.waitList)
          ∧ ∀ ref l p, (s.cell c).pendingSlot = some ref → s.lot ref.lot = some l → l.portion ref.portion = some p →
            (t.cell c).pendingSlot = none ∧ t.hasEntry ref.lot
            ∧ ((t.lot ref.lot).bind fun l => l.portion ref.portion) = some { p with state := .queued }
            ∧ ∀ y, y ≠ ref.lot → t.lot y = s.lot y)
        ∧ ((s.load c).active → (s.cell c).current = none ∨ (s.cell c).runStarted → (s.cell c).pendingSlot = none →
          (∀ d, d ≠ c → s.bufferWaiting.get d = false) →
          (t.load c).state = .failed ∧ (t.load c).error = some .aborted ∧ (t.load c).wants = [] ∧ (t.load c).inFlight = []
          ∧ t.bufferWaiting.get c = false ∧ t.buffers = s.buffers.map (Buffer.freedFrom c) ∧ (t.cell c).program = none))
    ∧ ((s.port c).tx = none → exec (.cellFrameSent c) s = .next (settleHost s))
    ∧ ∀ f, (s.port c).tx = some f → exec (.cellFrameSent c) s = .next (settleHost (modPort c (fun p => { p with
        tx := p.txList.head?, txList := p.txList.tail }) s))

/-- The port takes the record at the head of its queue (R114 to R119, R125 to R127): a SITE-RESULT joins the group, the first eight kept,
and latches the flag of its status, with a report when the flag was clear; a STRAY record only latches its flag; a complete production
group within H, of either pass, is counted in its pass's tally, moves its units from H to T, and enters the run tested count, the run
group count, the lifetime counter, the result check and the sites' consecutive-fail counts, with a TALLY report at each interval (here one
that brings no MAINTENANCE-DUE); after all that a first-pass group has the in-flight evaluation of its lot (R125, R130), which O7
describes. A result that brings its site's count to the limit switches the site off, with SITE-OFF and a report, and drains a run with too
few sites left (R58; here of a group of one). A GROUP-END whose number does not follow the last one latches SEQ-GAP, with its LINK-ERROR
report when the flag was clear, and the group goes on all the same (R115, R116). A group above H only touches down and raises a CHECK
hold, none for a lot in a directly set state (R28); a complete setup group only touches down; a touchdown that reaches the contactor limit
sets MAINTENANCE-DUE with its report (R65). A MALFORMED GROUP-END, and a production one whose site count differs from the results', count
one damaged group of the portion, a setup one with such a difference none. A record's marks act after it: behind a JAM the group is
dropped, and the held RUN-END is handed (R57, R120; here one that agrees): the group is dropped, counted as damaged unless every result
kept of it, the first eight, is a setup one, which of more than eight is a reading (assumption 23). -/
def Obligations.RecordsAreTakenAndTallied : Prop :=
  ∀ (s : State) (c : CellId) (r : IntakeRecord) (rest : List IntakeRecord), (s.port c).queue = r :: rest →
    ∀ (rs : List IntakeRecord) (complete : Byte → Prop) (latched : LinkFlags) (closed taken : State) (touched : Cell),
    latched = (if (s.port c).lastTouchdown = none ∨ (s.port c).lastTouchdown = some (r.touchdown - 1) then (s.port c).flags
      else { (s.port c).flags with seqGap := true }) →
    complete = (fun f => r.marks = [] ∧ r.kind = .groupEnd ∧ r.status = .ok ∧ r.flags = f ∧ (s.port c).group = rs
      ∧ (s.port c).groupCount = rs.length ∧ rs.length = r.site.toNat ∧ rs.length ≤ 8
      ∧ (∀ q ∈ rs, q.status = .ok ∧ q.touchdown = r.touchdown ∧ q.flags = f) ∧ (rs.map (·.site)).Nodup) →
    closed = modPort c (fun p => { p with
      queue := rest, group := [], groupCount := 0, lastTouchdown := some r.touchdown, flags := latched }) s →
    taken = (if latched = (s.port c).flags then closed else raise (.linkError c (.seqGap r.touchdown)) closed) →
    touched = { s.cell c with lifetime := satInc 4294967295 (s.cell c).lifetime } →
    (∀ u, r.marks = [] → r.kind = .siteResult → (s.port c).group.length ≤ 8 →
      u = (fun flags : LinkFlags => modPort c (fun p => { p with
        queue := rest, group := (p.group ++ [r]).take 8, groupCount := p.groupCount + 1, flags := flags }) s) →
      (r.status = .ok ∨ r.status = .malformed → exec (.intakeRecordTaken c) s = .next (settleHost (u (s.port c).flags)))
      ∧ ∀ flags cause,
        (r.status = .siteBad ∧ flags = { (s.port c).flags with siteBad := true } ∧ cause = .siteBad r.site
          ∨ r.status = .dupSite ∧ flags = { (s.port c).flags with dupSite := true } ∧ cause = .dupSite r.site
          ∨ r.status = .setupLate ∧ flags = { (s.port c).flags with setupLate := true } ∧ cause = .setupLate r.touchdown) →
        exec (.intakeRecordTaken c) s
          = .next (settleHost (if flags = (s.port c).flags then u flags else raise (.linkError c cause) (u flags))))
    ∧ (∀ u, r.marks = [] → r.status = .stray → u = modPort c (fun p => { p with queue := rest, flags := { p.flags with stray := true } }) s →
      exec (.intakeRecordTaken c) s
        = .next (settleHost (if (s.port c).flags.stray then u else raise (.linkError c (.stray r.touchdown)) u)))
    ∧ (∀ ref l p st (count : IntakeRecord → Fin 8 → Nat) (tallied : State → Prop), complete 0 →
      s.currentWork c = some (ref, l, p, st) → rs.length ≤ p.h →
      (∀ q ∈ rs, 1 ≤ q.bin.toNat ∧ q.bin.toNat ≤ 16) → (s.cell c).contactorLimit = 0 →
      count = (fun q k => if q.bin = 1 then 0 else satInc 255 ((s.cell c).consec.get k)) →
      tallied = (fun u =>
        exec (.intakeRecordTaken c) s
          = .next (settleHost (if passOf p.number = .first then evaluate offerRound ref.lot p.number false u else u))
        ∧ (passOf p.number = .first → u.tally ref.lot = { s.tally ref.lot with first := (u.tally ref.lot).first }
          ∧ ∀ b, (u.tally ref.lot).first.bin b = (s.tally ref.lot).first.bin b + (rs.filter fun q => q.bin.toNat = b).length)
        ∧ (passOf p.number = .retest → u.tally ref.lot = { s.tally ref.lot with retest := (u.tally ref.lot).retest }
          ∧ ∀ b, (u.tally ref.lot).retest.bin b = (s.tally ref.lot).retest.bin b + (rs.filter fun q => q.bin.toNat = b).length)
        ∧ u.lot ref.lot = some (l.modPortion ref.portion fun p => { p with
            h := p.h - rs.length, t := p.t + rs.length, firstProduction := some (p.firstProduction.getD s.floorTime) })
        ∧ (u.cell c).runTested = (s.cell c).runTested + rs.length ∧ u.runGroups.get c = satInc 65535 (s.runGroups.get c)
        ∧ (u.cell c).lifetime = touched.lifetime
        ∧ (u.port c).resultCheck = crc16From (s.port c).resultCheck (rs.flatMap fun q => [q.site, q.bin, q.flags])
        ∧ (u.port c).lastTouchdown = some r.touchdown ∧ (u.port c).group = [] ∧ (u.port c).queue = rest
        ∧ (u.port c).flags = latched
        ∧ (∀ y, y ≠ ref.lot → u.lot y = s.lot y ∧ u.tally y = s.tally y) ∧ (∀ d, d ≠ c → u.cell d = s.cell d ∧ u.port d = s.port d)
        ∧ u.waitList = s.waitList ∧ u.catalog = s.catalog ∧ u.products = s.products ∧ u.baselines = s.baselines
        ∧ u.floorTime = s.floorTime) →
      ((∀ q ∈ rs, ∀ k : Fin 8, q.site.toNat = k.val →
        ¬ (st.limits.consecFail ≠ 0 ∧ count q k = st.limits.consecFail ∧ (s.cell c).consec.get k < count q k)) →
      ∃ u, tallied u ∧ (u.cell c).state = (s.cell c).state ∧ (u.cell c).siteOff = (s.cell c).siteOff
        ∧ (∀ k : Fin 8, (u.cell c).consec.get k = match rs.find? (fun q => q.site.toNat = k.val) with
          | some q => count q k | none => (s.cell c).consec.get k)
        ∧ ∀ counts, counts = (match passOf p.number with | .first => (u.tally ref.lot).first | .retest => (u.tally ref.lot).retest) →
          u.host = (if (s.cell c).tallyInterval ≠ 0 ∧ u.runGroups.get c % (s.cell c).tallyInterval = 0 then
            raise (.tally c l.id l.stepIndex (passOf p.number) p.number r.touchdown (u.runGroups.get c) (u.cell c).runTested
              counts.sum counts) taken else taken).host)
      ∧ ∀ q (k : Fin 8) off drains, rs = [q] → q.site.toNat = k.val → st.limits.consecFail ≠ 0 → st.limits.consecFail ≤ 255 →
        q.bin ≠ 1 → (s.cell c).consec.get k + 1 = st.limits.consecFail → SiteSet.has (s.cell c).siteOff k.val = false →
        (s.cell c).pendingSlot = none → off = SiteSet.add (s.cell c).siteOff k.val →
        drains = ((s.cell c).inRun && SiteSet.size (Cell.enabled { s.cell c with siteOff := off }) < st.minSites) →
        ∃ u, tallied u ∧ (u.cell c).siteOff = off ∧ (u.cell c).consec.get k = st.limits.consecFail
        ∧ (u.cell c).state = (if drains then .draining else (s.cell c).state)
        ∧ ((s.cell c).linkUp → (s.port c).tx = none → (s.port c).txList = [] → (u.port c).tx = some (.siteOff k.val)
          ∧ (u.port c).txList = if drains then [.stop] else [])
        ∧ (taken.host.reports.length ≤ 62 → ⟨s.floorTime, .siteOff c k.val l.id p.number st.limits.consecFail⟩ ∈ u.host.reports))
    ∧ (∀ ref l p st, complete 0 → s.currentWork c = some (ref, l, p, st) → p.h < rs.length → (s.cell c).contactorLimit = 0 →
      (l.state.direct → exec (.intakeRecordTaken c) s = .next (settleHost (taken.setCell c touched)))
      ∧ (l.state.direct = false → l.pendingCells = [] → ∃ t l', exec (.intakeRecordTaken c) s = .next t
        ∧ t.lot ref.lot = some l' ∧ l'.heldFor .check ∧ l'.portions = l.portions ∧ (t.cell c).lifetime = touched.lifetime
        ∧ (t.cell c).runTested = (s.cell c).runTested ∧ (t.port c).resultCheck = (s.port c).resultCheck ∧ (t.port c).group = []
        ∧ (t.port c).queue = rest ∧ t.tallies = s.tallies ∧ t.runGroups = s.runGroups ∧ ∀ y, y ≠ ref.lot → t.lot y = s.lot y))
    ∧ (∀ due, complete 1 → due = (touched.contactorLimit ≠ 0 ∧ touched.contactorLimit ≤ touched.lifetime
        ∧ (s.cell c).maintenanceDue = false) →
      (¬ due → exec (.intakeRecordTaken c) s = .next (settleHost (taken.setCell c touched)))
      ∧ (due → (s.cell c).pendingSlot = none → exec (.intakeRecordTaken c) s = .next (settleHost (setWaiting c false
        (raise (.maintenance c touched.lifetime touched.contactorLimit) (taken.setCell c { touched with maintenanceDue := true }))))))
    ∧ (r.marks = [] → r.kind = .groupEnd → r.status = .ok → (s.port c).groupCount ≠ r.site.toNat →
      (r.flags = 1 → exec (.intakeRecordTaken c) s = .next (settleHost taken))
      ∧ ∀ ref, r.flags = 0 → (s.cell c).current = some ref →
        exec (.intakeRecordTaken c) s = .next (settleHost (modPortion ref (fun p => { p with damaged := satInc 255 p.damaged }) taken)))
    ∧ (∀ ref, r.marks = [] → r.kind = .groupEnd → r.status = .malformed → (s.cell c).current = some ref →
      exec (.intakeRecordTaken c) s = .next (settleHost (modPortion ref (fun p => { p with damaged := satInc 255 p.damaged })
        (modPort c (fun p => { p with queue := rest, group := [], groupCount := 0 }) s))))
    ∧ (r.marks = [.jamFollows] → r.kind = .siteResult → r.status = .ok → exec (.intakeRecordTaken c) s
      = .next (settleHost (modPort c (fun p => { p with queue := rest, group := [], groupCount := 0 }) s)))
    ∧ ∀ ref e (damaged : Bool) x, r.marks = [.endFollows] → r.kind = .siteResult → r.status = .ok → (s.port c).heldRunEnd = some e →
      (s.cell c).current = some ref → (s.cell c).endsRun → e.tested.toNat = (s.cell c).runTested → e.check = (s.port c).resultCheck →
      damaged = !(((s.port c).group ++ [r]).take (max 8 (s.port c).group.length)).all (fun q => q.status ≠ .malformed && q.flags.getLsbD 0) →
      x = { s.cell c with soakTimer := none, dwellTimer := none, purgeTimer := some 600, state := .purging } →
      exec (.intakeRecordTaken c) s = .next (settleHost (setWaiting c false
        (raise (.cellState c (s.cell c).state .purging x.pause x.fault)
          ((sendFrame c .purge (modPortion ref (fun p => if damaged then { p with damaged := satInc 255 p.damaged } else p)
            (modPort c (fun p => { p with queue := rest, heldRunEnd := none, group := [], groupCount := 0 }) s))).setCell c x))))

/-! ### Image Loader -/

/-- LOAD-DATA (R89, R90, R93, R94): its body holds cell, offset and data (R189), and one of no data or of more than 256 bytes of it is
refused; so is one for a cell above 15, without an outstanding want, at another offset than the oldest want's,
and with another length than the block's; else the block is placed in the buffer reserved for its want, the want is filled, the bytes pass
through the running CRC, the block is sent and is in flight, the last block forms the relayed check, and a WANTING load is RELAYING. -/
def Obligations.LoadDataRelaysTheOldestWant : Prop :=
  (∀ (tag : BitVec 16) (s : State) (cell : Byte) (offset : BitVec 24) (data : List Byte), s.takes tag →
    data = [] ∨ 256 < data.length ∨ 16 ≤ cell.toNat →
    exec (.loadData tag cell offset data) s = .next (s.answered tag .loadData (refusedFor .badField)))
  ∧ ∀ (tag : BitVec 16) (s : State) (c : CellId) (cell : Byte) (offset : BitVec 24) (data : List Byte) (o : Nat), s.takes tag →
    cell.toNat = c.val → o = offset.toNat → data ≠ [] → data.length ≤ 256 →
    ((s.load c).wants = [] →
      exec (.loadData tag cell offset data) s = .next (s.answered tag .loadData (refusedFor .wrongState)))
    ∧ ∀ w ws, (s.load c).wants = w :: ws →
      (o ≠ w → exec (.loadData tag cell offset data) s = .next (s.answered tag .loadData ⟨.refused .offset, .expectedOffset w⟩))
      ∧ (o = w → data.length ≠ min 256 ((s.load c).length - o) →
        exec (.loadData tag cell offset data) s = .next (s.answered tag .loadData (refusedFor .badField)))
      ∧ ∀ d, o = w → data.length = min 256 ((s.load c).length - o) →
        d = { s.load c with
          wants := ws
          crc := crc32From (s.load c).crc data
          relayed := (s.load c).relayed + data.length
          inFlight := (s.load c).inFlight ++ [o]
          relayedCheck := if (s.load c).relayed + data.length = (s.load c).length then some (~~~ crc32From (s.load c).crc data)
            else (s.load c).relayedCheck
          state := if (s.load c).state = .wanting then .relaying else (s.load c).state } →
        exec (.loadData tag cell offset data) s
          = .next (State.answered tag .loadData (okWith (.loadTaken o d.relayed ws.head?))
            (modLoad c (fun _ => d) (sendFrame c (.imageBlock o data) (fillBuffer c o data s))))
        ∧ ∀ b : Fin 8, s.buffers.get b = .reserved c o → (∀ a, a < b → s.buffers.get a ≠ .reserved c o) →
          fillBuffer c o data s = { s with buffers := s.buffers.set b.val (.filled c o data) b.isLt }

/-- BLOCK-ACK (R90 to R92, R95, R98): discarded unless the offset is in flight of a RELAYING load; else the buffer filled with the block
is free, and, where no other load waits for one, a load with more to want is granted a buffer, the lowest-numbered free one (which one is
the model's choice, assumption 47), as the reservation for its next want, with a LOAD-WANT report; where loads wait, itself among them if
it wants more, the one buffer that is free goes to the first of them in cyclic order from the cell after the grant pointer, which becomes
that cell, and the load stays in the set only if it needs another; after the last block of all IMAGE-END is sent with length and catalog
check, and the load is VERIFYING under its check timer. -/
def Obligations.AcknowledgedBlocksFreeTheirBuffers : Prop :=
  ∀ (s : State) (c : CellId) (offset : BitVec 24) (freed : Vector Buffer 8), (s.cell c).linkUp →
    freed = (freeBlock c offset.toNat s).buffers →
    (¬ ((s.load c).state = .relaying ∧ offset.toNat ∈ (s.load c).inFlight) →
      exec (.blockAck c offset) s = .next (settleHost (s.heard c)))
    ∧ ((s.load c).state = .relaying → offset.toNat ∈ (s.load c).inFlight → (∀ d : CellId, s.bufferWaiting.get d = false) →
      ((s.load c).length ≤ (s.load c).nextWant →
        (s.load c).relayed ≠ (s.load c).length ∨ (s.load c).inFlight.erase offset.toNat ≠ [] →
        exec (.blockAck c offset) s = .next (settleHost (modLoad c (fun d => { d with inFlight := d.inFlight.erase offset.toNat })
          { s.heard c with buffers := freed })))
      ∧ ((s.load c).length ≤ (s.load c).nextWant → (s.load c).relayed = (s.load c).length → (s.load c).inFlight = [offset.toNat] →
        exec (.blockAck c offset) s = .next (settleHost
          (modLoad c (fun d => { d with inFlight := [], state := .verifying, checkTimer := true })
            (sendFrame c (.imageEnd (s.load c).length ((s.load c).catalogCheck.getD 0))
              { s.heard c with buffers := freed }))))
      ∧ ((s.load c).nextWant < (s.load c).length → (s.load c).held = 2 → (s.load c).relayed ≠ (s.load c).length →
        ∀ (n : Nat) (p : ProgramRev) (b : Fin 8), n = (s.load c).nextWant → p = (s.load c).program.getD ⟨[], 0⟩ →
        freed.get b = .free → (∀ a, a < b → freed.get a ≠ .free) →
        exec (.blockAck c offset) s = .next (settleHost
          (modLoad c (fun d => { d with
              inFlight := d.inFlight.erase offset.toNat, wants := d.wants ++ [n], nextWant := min (n + 256) d.length })
            (raise (.loadWant c p n (min 256 ((s.load c).length - n))) { s.heard c with
              buffers := freed.set b.val (.reserved c n) b.isLt, grantPointer := c })))))
    ∧ ((s.load c).state = .relaying → offset.toNat ∈ (s.load c).inFlight → freed.toList.count .free = 1 →
      ∀ (waits : CellId → Bool) (g : CellId) (b : Fin 8) (n : Nat) (old new : Load) (u : State),
      waits = (fun d => s.bufferWaiting.get d
        || (d = c && decide ((s.load c).nextWant < (s.load c).length) && decide ((s.load c).held ≤ 2))) →
      waits g → (∀ d, waits d → (g - (s.grantPointer + 1)).val ≤ (d - (s.grantPointer + 1)).val) → freed.get b = .free →
      old = (if g = c then { s.load c with inFlight := (s.load c).inFlight.erase offset.toNat } else s.load g) → n = old.nextWant →
      new = { old with wants := old.wants ++ [n], nextWant := min (n + 256) old.length } →
      u = { modLoad g (fun _ => new) (modLoad c (fun d => { d with inFlight := d.inFlight.erase offset.toNat })
          (raise (.loadWant g (old.program.getD ⟨[], 0⟩) n (min 256 (old.length - n))) (s.heard c))) with
        buffers := freed.set b.val (.reserved g n) b.isLt, grantPointer := g
        bufferWaiting := Vector.ofFn fun d => waits d && (d ≠ g || ((new.state = .wanting || new.state = .relaying)
          && decide (new.wants.length + new.inFlight.length < 2) && decide (new.nextWant < new.length))) } →
      ((s.load c).relayed ≠ (s.load c).length ∨ (s.load c).inFlight.erase offset.toNat ≠ [] →
        exec (.blockAck c offset) s = .next (settleHost u))
      ∧ ((s.load c).relayed = (s.load c).length → (s.load c).inFlight = [offset.toNat] →
        exec (.blockAck c offset) s = .next (settleHost
          (modLoad c (fun d => { d with state := .verifying, checkTimer := true })
            (sendFrame c (.imageEnd (s.load c).length ((s.load c).catalogCheck.getD 0)) u)))))
    ∧ ∀ (b : Fin 8) data, s.buffers.get b = .filled c offset.toNat data →
      (∀ a, a < b → ∀ old, s.buffers.get a ≠ .filled c offset.toNat old) → freed = s.buffers.set b.val .free b.isLt

/-- Each failure that counts, SOURCE, TRANSFER or TIMEOUT, at a LOADING cell whose portion has units left, while no cell waits for work
(R24, R25, R51, R96 to R98, R100, R101): the load is FAILED with its error and its buffers are free, its portion is QUEUED, no program is
loaded, the failure is counted, and the cell is DOWN with fault code LOAD at the third failure, else IDLE and cleared (here one that an
operator's pause keeps from work). What a load that fails with SUSPENDED does, whose failure does not count, is O20's, and what one
that ends with ABORTED does O32's. A BLOCK-NAK for a block no longer in flight is discarded (R96). That the expiry of a timer of what is
no longer outstanding is a command that does nothing is the model's choice (assumption 9). -/
def Obligations.FailedLoadsReturnThePortion : Prop :=
  ∀ (s : State) (c : CellId),
    (∀ ref l p command e, (s.cell c).state = .loading → (s.load c).active →
      (∃ o : BitVec 24, command = .blockNak c o ∧ (s.cell c).linkUp ∧ (s.load c).state = .relaying ∧ o.toNat ∈ (s.load c).inFlight
          ∧ e = .transfer)
        ∨ (∃ o, command = .dataTimeout c o ∧ o ∈ (s.load c).wants ∧ e = .timeout)
        ∨ (∃ o, command = .ackTimeout c o ∧ o ∈ (s.load c).inFlight ∧ e = .transfer)
        ∨ command = .checkTimeout c ∧ (s.load c).state = .verifying ∧ (s.load c).checkTimer ∧ e = .transfer
        ∨ (∃ v, command = .imageCheck c v ∧ (s.cell c).linkUp ∧ (s.load c).state = .verifying
          ∧ ((s.load c).relayedCheck ≠ (s.load c).catalogCheck ∧ e = .source
            ∨ (s.load c).relayedCheck = (s.load c).catalogCheck ∧ (s.load c).relayedCheck ≠ some v ∧ e = .transfer)) →
      (s.cell c).current = some ref → s.lot ref.lot = some l → l.portion ref.portion = some p → 0 < p.r → l.state ≠ .scrapping →
      s.noCellWaits → 2 ≤ (s.cell c).loadFailures ∨ (s.cell c).pause.operator →
      ∃ t, exec command s = .next t
        ∧ (t.load c).state = .failed ∧ (t.load c).error = some e ∧ (t.load c).wants = [] ∧ (t.load c).inFlight = []
        ∧ (t.load c).checkTimer = false ∧ t.bufferWaiting.get c = false
        ∧ ((∀ d : CellId, d ≠ c → s.bufferWaiting.get d = false) → t.buffers = s.buffers.map (Buffer.freedFrom c))
        ∧ (t.cell c).state = (if 2 ≤ (s.cell c).loadFailures then .down else .idle)
        ∧ (t.cell c).fault = (if 2 ≤ (s.cell c).loadFailures then .load else (s.cell c).fault)
        ∧ (t.cell c).loadFailures = (s.cell c).loadFailures + 1 ∧ (t.cell c).program = none ∧ (t.cell c).current = none
        ∧ ((s.cell c).loadFailures < 2 → (t.cell c).cleared)
        ∧ (t.cell c).pause = { (s.cell c).pause with hold := false }
        ∧ ((t.lot ref.lot).bind fun l => l.portion ref.portion) = some { p with state := .queued }
        ∧ (∀ y, y ≠ ref.lot → t.lot y = s.lot y) ∧ t.hasEntry ref.lot ∧ t.noCellWaits ∧ t.catalog = s.catalog
        ∧ t.tallies = s.tallies)
    ∧ (∀ o : BitVec 24, (s.cell c).linkUp → ¬ ((s.load c).state = .relaying ∧ o.toNat ∈ (s.load c).inFlight) →
      exec (.blockNak c o) s = .next (settleHost (s.heard c)))
    ∧ (∀ o, (o ∉ (s.load c).wants → exec (.dataTimeout c o) s = .next (settleHost s))
      ∧ (o ∉ (s.load c).inFlight → exec (.ackTimeout c o) s = .next (settleHost s)))
    ∧ (¬ ((s.load c).state = .verifying ∧ (s.load c).checkTimer) → exec (.checkTimeout c) s = .next (settleHost s))

/-- IMAGE-CHECK with all three values equal (R49, R51, R100, R103): the load is DONE with its LOAD-DONE report, and the LOADING
cell has the program loaded and its failures forgotten; its setup check then leaves it RESERVED with a CHANGEOVER report where another
kit, or none, has been fitted since, PAUSED where a pause reason has come, and else soaking. In any other state of the load it is
discarded. -/
def Obligations.GoodChecksLoadTheProgram : Prop :=
  ∀ (s : State) (c : CellId) (v : BitVec 32), (s.cell c).linkUp →
    ((s.load c).state ≠ .verifying → exec (.imageCheck c v) s = .next (settleHost (s.heard c)))
    ∧ ∀ ref l p st r d x u, (s.load c).state = .verifying → (s.load c).catalogCheck = some v → (s.load c).relayedCheck = some v →
      (s.cell c).state = .loading → s.currentWork c = some (ref, l, p, st) → p.revision = some r →
      (s.load c).program = some ⟨st.program, r⟩ → d = { s.load c with stationCheck := some v, checkTimer := false, state := .done } →
      x = { s.cell c with program := some ⟨st.program, r⟩, loadFailures := 0 } →
      u = raise (loadDoneReport c d) (modLoad c (fun _ => d) (s.heard c)) →
      ((s.cell c).kit = some st.kit → (s.cell c).pause.isEmpty → exec (.imageCheck c v) s = .next (settleHost
        (raise (.cellState c .loading .soaking x.pause x.fault) ((sendFrame c (.soak st.tempClass) u).setCell c
          { x with state := .soaking, soakTimer := some st.soakTimeout, dwellTimer := none }))))
      ∧ ((s.cell c).kit = some st.kit → (s.cell c).pause.isEmpty = false → exec (.imageCheck c v) s = .next (settleHost
        (raise (.cellState c .loading .paused x.pause x.fault) (u.setCell c { x with state := .paused }))))
      ∧ ((s.cell c).kit ≠ some st.kit → exec (.imageCheck c v) s = .next (settleHost
        (raise (.changeover c l.id p.number st.kit (s.cell c).kit)
          (raise (.cellState c .loading .reserved x.pause x.fault) (u.setCell c { x with state := .reserved })))))

/-! ### Dispatcher -/

/-- DISPATCH-AGING stores the aging limit clamped to 1 to 15 and answers it; the skip counts are kept, no round runs: nothing else
changes (R85). The winner of an offer (R75, R76): with the list in order of priority it is a candidate of the highest band that holds one; if
a candidate of that band has reached the aging limit, the winner is the first such; else, if one is a setup match, the first such;
else the first candidate. With no candidate nothing wins. A new entry is placed in the order of R70. After a taken placement the
winner's skip count is 0, those passed over gain one, saturating at 15, and every other entry is as it was (R78). -/
def Obligations.OffersGoToTheBestEntry : Prop :=
  (∀ (tag : BitVec 16) (limit : Nat) (s : State), s.takes tag →
    exec (.dispatchAging tag limit) s = .next (State.answered tag .dispatchAging (okWith (.aging (max 1 (min 15 limit))))
      { s with agingLimit := max 1 (min 15 limit) }))
  ∧ (∀ (s : State) (c : CellId), (winner s c = none ↔ ∀ e ∈ s.waitList, candidate s c e = false)
    ∧ ∀ w, winner s c = some w → s.waitList.Pairwise (fun a b => b.priority ≤ a.priority) →
      ∃ before after band, s.waitList = before ++ w :: after ∧ candidate s c w
        ∧ band = s.waitList.filter (fun e => candidate s c e && e.priority == w.priority)
        ∧ (∀ e ∈ s.waitList, candidate s c e → e.priority ≤ w.priority)
        ∧ ((∃ e ∈ band, s.agingLimit ≤ e.skip) → band.find? (fun e => s.agingLimit ≤ e.skip) = some w)
        ∧ ((∀ e ∈ band, e.skip < s.agingLimit) → (∃ e ∈ band, setupMatch s c e) → band.find? (setupMatch s c) = some w)
        ∧ ((∀ e ∈ band, e.skip < s.agingLimit) → (∀ e ∈ band, setupMatch s c e = false) → band.head? = some w))
  ∧ (∀ (s : State) (e : WaitEntry) (es : List WaitEntry), es.Pairwise (fun a b => entryBefore s b a = false) →
    (insertEntry s e es).Pairwise (fun a b => entryBefore s b a = false) ∧ (insertEntry s e es).Perm (e :: es))
  ∧ ∀ (passed : List LotSlot) (w : LotSlot) (es : List WaitEntry), (bumpSkips passed w es).length = es.length
    ∧ ∀ (n : Nat) (e : WaitEntry), es[n]? = some e → (bumpSkips passed w es)[n]? = some { e with
      skip := if e.lot = w then 0 else if e.lot ∈ passed then (if e.skip < 15 then e.skip + 1 else e.skip) else e.skip }

/-- Placement (R48, R49, R77, R79). An offer round takes the cells that wait as it starts in cyclic order from the pointer, those that
still wait, each with one offer; it does nothing while none waits. An offer without a candidate, or to a cell that takes none, changes
nothing. A taken one places the winner's lowest-numbered QUEUED portion, under its step's revision, which the portion records: in the
pending slot of a RUNNING cell, or in the empty current slot of an IDLE one, which then makes its setup check: RESERVED for another
kit, PAUSED with a pause reason, SOAKING with the program loaded, else LOADING. The cell no longer waits, the pointer stands at the next
cell, the skip counts are as R78 says, and the entry leaves with its last QUEUED portion; no other cell and no other lot changes. A
round asked for inside a round is nothing (assumption 6). -/
def Obligations.PlacementsFillTheSlot : Prop :=
  ∀ (s : State) (c : CellId),
    (s.noCellWaits → offerRound s = s)
    ∧ (s.waiting.get c → (∀ d, d ≠ c → s.waiting.get d = false) → offerRound s = offer id c s)
    ∧ offerRound s = (cyclicFrom s.pointer).foldl (fun t d => if s.waiting.get d && t.waiting.get d then offer id d t else t) s
    ∧ (cyclicFrom s.pointer).length = 16 ∧ (∀ n : Fin 16, (cyclicFrom s.pointer)[n.val]? = some (s.pointer + n))
    ∧ (winner s c = none → offer id c s = s)
    ∧ (¬ ((s.cell c).state = .idle ∧ (s.cell c).current = none) → ¬ ((s.cell c).state = .running ∧ (s.cell c).pendingSlot = none) →
      offer id c s = s)
    ∧ ∀ w l st p t ref q, winner s c = some w → s.lot w.lot = some l → s.stepOf l = some st → l.queuedPortions.head? = some p →
      (l.portions.map (·.number)).Nodup → t = offer id c s → ref = ⟨w.lot, p.number⟩ →
      q = { p with revision := some st.revision, placedRevs := insertRev st.revision p.placedRevs } →
      ((s.cell c).state = .idle ∧ (s.cell c).current = none ∨ (s.cell c).state = .running ∧ (s.cell c).pendingSlot = none →
        t.waiting.get c = false ∧ (∀ d, d ≠ c → t.waiting.get d = s.waiting.get d ∧ t.cell d = s.cell d ∧ t.port d = s.port d)
        ∧ t.pointer = c + 1
        ∧ t.waitList = (if (l.portions.filter fun p => p.state = .queued).length = 1
          then (bumpSkips (passedOver s c w) w.lot s.waitList).filter fun e => e.lot ≠ w.lot
          else bumpSkips (passedOver s c w) w.lot s.waitList)
        ∧ (∀ y, y ≠ w.lot → t.lot y = s.lot y) ∧ t.tallies = s.tallies ∧ t.catalog = s.catalog ∧ t.products = s.products
        ∧ ∃ l', t.lot w.lot = some l' ∧ l'.holds = l.holds ∧ l'.route = l.route ∧ l'.stepIndex = l.stepIndex
          ∧ (∀ n, n ≠ p.number → l'.portion n = l.portion n) ∧ (l.state.direct = false → l.route = .stepOpen → l'.state = .active)
          ∧ l'.portion p.number = some { q with state := if (s.cell c).state = .idle then .atCell c else .pending c })
      ∧ ((s.cell c).state = .running → (s.cell c).pendingSlot = none →
        t.cell c = { s.cell c with pendingSlot := some ref } ∧ t.ports = s.ports ∧ t.loads = s.loads)
      ∧ ((s.cell c).state = .idle → (s.cell c).current = none → ∀ x, x = { s.cell c with current := some ref, cleared := false } →
        ((s.cell c).kit ≠ some st.kit → t.cell c = { x with state := .reserved } ∧ t.ports = s.ports ∧ t.loads = s.loads)
        ∧ ((s.cell c).kit = some st.kit → (s.cell c).pause.isEmpty = false →
          t.cell c = { x with state := .paused } ∧ t.ports = s.ports ∧ t.loads = s.loads)
        ∧ ((s.cell c).kit = some st.kit → (s.cell c).pause.isEmpty → (s.cell c).program = some ⟨st.program, st.revision⟩ →
          t.cell c = { x with state := .soaking, soakTimer := some st.soakTimeout, dwellTimer := none } ∧ t.loads = s.loads)
        ∧ ((s.cell c).kit = some st.kit → (s.cell c).pause.isEmpty → (s.cell c).program ≠ some ⟨st.program, st.revision⟩ →
          t.cell c = { x with state := .loading } ∧ t.ports = s.ports
          ∧ (t.load c).state = .wanting ∧ (t.load c).program = some ⟨st.program, st.revision⟩))

/-! ### Tally and Limit Unit -/

/-- The fraction of a count over a total is the nearest whole number of ppm, halves up; it is 0 for no count, 1,000,000 for the
whole total, and never above; over a total of 65,535 at most the sum before the division fits a 37-bit register (R129). -/
def Obligations.FractionsAreNearestPpm : Prop :=
  ∀ c t : Nat, 1 ≤ t → c ≤ t →
    fraction c t = (c * 1000000 + t / 2) / t
    ∧ 2 * (c * 1000000) < (2 * fraction c t + 1) * t ∧ (2 * fraction c t) * t ≤ 2 * (c * 1000000) + t
    ∧ fraction c t ≤ 1000000 ∧ fraction 0 t = 0 ∧ fraction t t = 1000000
    ∧ (t ≤ 65535 → c * 1000000 + t / 2 ≤ 65535032767 ∧ c * 1000000 + t / 2 < 2 ^ 37)

/-- Limit evaluation (R130, R131, R133 to R137). An evaluation of an empty tally, of a SCRAPPING or SCRAPPED lot, or in flight below M,
changes nothing; a final one below M marks the lot and its record SMALL; else the yield check is made, then each monitored bin in the
step's order. The yield check's condition holds when Y is below Fy, a bin's when P is above its effective ceiling. Where a condition
holds and the flag is clear, the flag sets with portion, time, figure and bound and a LIMIT report tells MASKED, WAIVED or HELD; only
HELD hands the YIELD or BINLIMIT hold, with the portion, and 0 or the bin: one more occurrence on a record of the reason, else a new
record, whose first pauses the lot's cells. Where the flag is set, the condition adds an occurrence to a record of its reason when it
is unmasked and not waived, and else changes nothing. -/
def Obligations.LimitConditionsSetFlags : Prop :=
  ∀ (s : State) (x : LotSlot) (l : Lot) (portion : Nat) (final : Bool), s.lot x = some l →
    (∀ st n r, s.stepOf l = some st → n = (s.tally x).first.sum → r = evaluate offerRound x portion final s →
      (l.state = .scrapping ∨ l.state = .scrapped ∨ n = 0 ∨ n < st.limits.minSample ∧ final = false → r = s)
      ∧ (l.state ≠ .scrapping → l.state ≠ .scrapped → n ≠ 0 → n < st.limits.minSample → final →
        r = modLot x (fun l => { l with small := true }) (modTally x (fun r => { r with smallAtFinal := true }) s))
      ∧ (l.state ≠ .scrapping → l.state ≠ .scrapped → n ≠ 0 → st.limits.minSample ≤ n →
        r = st.limits.entries.foldl (fun u m => binCheck offerRound ⟨x, portion, final, n⟩ l.product l.stepIndex m u)
          (yieldCheck offerRound ⟨x, portion, final, n⟩ st.limits s)))
    ∧ (∀ n (m : LimitSet) y, y = fraction ((s.tally x).first.bin 1) n →
      (m.yieldFloor ≤ y → yieldCheck offerRound ⟨x, portion, final, n⟩ m s = s)
      ∧ (y < m.yieldFloor → yieldCheck offerRound ⟨x, portion, final, n⟩ m s
        = conditionHolds offerRound ⟨x, portion, final, n⟩ .yield m.yieldMask y m.yieldFloor s))
    ∧ (∀ n i step (m : MonEntry) y bound, y = fraction ((s.tally x).first.bin m.bin) n →
      bound = effectiveCeiling m (s.baseline i step m.bin) →
      (y ≤ bound → binCheck offerRound ⟨x, portion, final, n⟩ i step m s = s)
      ∧ (bound < y → binCheck offerRound ⟨x, portion, final, n⟩ i step m s
        = conditionHolds offerRound ⟨x, portion, final, n⟩ (.bin m.bin) m.mask y bound s))
    ∧ ∀ n k reason detail mask figure bound t, k = .yield ∧ reason = .yield ∧ detail = 0
        ∨ (∃ b, k = .bin b ∧ 2 ≤ b ∧ b ≤ 16 ∧ reason = .binlimit ∧ detail = b) →
      t = conditionHolds offerRound ⟨x, portion, final, n⟩ k mask figure bound s →
      (∀ f, (s.tally x).flag k = some f →
        (mask = .masked ∨ (s.tally x).waive.has k ∨ l.heldFor reason = false ∨ l.state.direct → t = s)
        ∧ (mask = .unmasked → (s.tally x).waive.has k = false → l.heldFor reason → l.state.direct = false →
          t = lotChanged x (s.setLot x (some { l with holds := bumpHold reason l.holds }))))
      ∧ ((s.tally x).flag k = none → ∀ mk u, mk = (if mask = .masked then .masked else if (s.tally x).waive.has k then .waived else .held) →
        u = raise (.limit l.id l.stepIndex k final portion n figure bound mk)
          (modTally x (fun r => r.setFlag k (some ⟨portion, s.floorTime, figure, bound⟩)) s) →
        (u.tally x).flag k = some ⟨portion, s.floorTime, figure, bound⟩ ∧ (∀ j, j ≠ k → (u.tally x).flag j = (s.tally x).flag j)
        ∧ (u.tally x).first = (s.tally x).first ∧ (u.tally x).retest = (s.tally x).retest ∧ (u.tally x).waive = (s.tally x).waive
        ∧ (mk ≠ .held ∨ l.state.direct → t = u)
        ∧ (mk = .held → l.state.direct = false →
          (l.heldFor reason → t = lotChanged x (u.setLot x (some { l with holds := bumpHold reason l.holds })))
          ∧ (l.heldFor reason = false → ∀ record, record = (⟨reason, s.floorTime, 1, l.stepIndex, portion, detail⟩ : Hold) →
            (l.holds ≠ [] → t = lotChanged x (raise (.holdRaised l.id reason l.stepIndex portion detail)
              (u.setLot x (some { l with holds := l.holds ++ [record] }))))
            ∧ (l.holds = [] → l.pendingCells = [] → t.tallies = u.tallies
              ∧ (∃ l', t.lot x = some l' ∧ l'.holds = [record] ∧ l'.portions = l.portions)
              ∧ ∀ a ∈ l.atCells, (s.cell a.1).current = some ⟨x, a.2⟩ → (t.cell a.1).pause.hold))))

/-- BASELINE-SET of a monitored bin replaces n, mean and D of that one baseline, answers them with learned value and effective
ceiling, and changes nothing else (R152, R153). The effective ceiling is the static one for a STATIC entry or under 5 contributions, else mean + ceil(K D / 4) brought between
Z and S (R132); and an update keeps a baseline's n to 255 and its mean and D to 1,000,000, takes the sample whole at n = 0, else
moves mean and D by the nearest share, halves away from zero, of their distances (R148 to R150). -/
def Obligations.BaselinesLearnTheCeiling : Prop :=
  (∀ (tag : BitVec 16) (s : State) (code : Text) (step bin n mean dev : Nat) (i : ProductIx) (p : Product) (st : StepRec) (e : MonEntry),
    s.takes tag → validCode code → 1 ≤ step → step ≤ 4 → 2 ≤ bin → bin ≤ 16 → n ≤ 255 → mean ≤ 1000000 → dev ≤ 1000000 →
    (n = 0 → mean = 0 ∧ dev = 0) → s.findProduct code = some i → s.product i = some p → p.step step = some st →
    st.limits.entries.find? (fun e => e.bin = bin) = some e →
    ∃ bs, exec (.baselineSet tag code step bin n mean dev) s = .next (State.answered tag .baselineSet
        (okWith (.baseline ⟨n, mean, dev⟩ (if n = 0 then none else some (mean + (e.k * dev + 3) / 4))
          (if e.mode = .static ∨ n < 5 then e.ceiling else min e.ceiling (max e.floor (mean + (e.k * dev + 3) / 4)))))
        { s with baselines := bs })
      ∧ State.baseline { s with baselines := bs } i step bin = ⟨n, mean, dev⟩
      ∧ (∀ k b, (k ≠ step ∨ b ≠ bin) → State.baseline { s with baselines := bs } i k b = s.baseline i k b)
      ∧ ∀ j, j ≠ i → bs.get j = s.baselines.get j)
  ∧ (∀ (e : MonEntry) (b : Baseline), e.floor ≤ e.ceiling →
    e.floor ≤ effectiveCeiling e b ∧ effectiveCeiling e b ≤ e.ceiling
    ∧ (e.mode = .static ∨ b.n < 5 → effectiveCeiling e b = e.ceiling)
    ∧ (e.mode = .learned → 5 ≤ b.n → ∀ v, 4 * v < e.k * b.dev + 4 → e.k * b.dev ≤ 4 * v →
      effectiveCeiling e b = min e.ceiling (max e.floor (b.mean + v))))
  ∧ (∀ (a : Int) (d : Nat), 1 ≤ d → 2 * (rndDiv a d * d - a).natAbs ≤ d
    ∧ (2 * (rndDiv a d * d - a).natAbs = d → a.natAbs < (rndDiv a d * d).natAbs) ∧ rndDiv (-a) d = -rndDiv a d
    ∧ rndDiv a.natAbs d = ((2 * a.natAbs + d) / (2 * d) : Nat))
  ∧ ∀ (b : Baseline) (x : Nat), x ≤ 1000000 → b.n ≤ 255 → b.mean ≤ 1000000 → b.dev ≤ 1000000 → ∀ u, u = updateBaseline b x →
    u.n = min 255 (b.n + 1) ∧ u.mean ≤ 1000000 ∧ u.dev ≤ 1000000
    ∧ (b.n = 0 → u.mean = x ∧ u.dev = 0)
    ∧ ∀ d, 1 ≤ b.n → d = min 8 (b.n + 1) →
      (u.mean : Int) = b.mean + rndDiv ((x : Int) - b.mean) d
      ∧ (u.dev : Int) = b.dev + rndDiv ((((x : Int) - b.mean).natAbs : Int) - b.dev) d

/-! ### Release Unit -/

/-- QA-RESULT for a lot in QA-WAIT without a hold and without a portion at or on its way to a cell (R34, R160): PASS takes it to
ROUTE-END, COMPLETE (RELEASED for a member of a RELEASED shipment, R20); FAIL raises a QA hold and leaves it PARKED in QA-FAILED.
For any other lot it is refused. -/
def Obligations.QaResultsMoveTheLot : Prop :=
  ∀ (tag : BitVec 16) (s : State) (id : Text) (x : LotSlot) (l : Lot), s.takes tag → validName id → s.findLot id = some x →
    s.lot x = some l →
    (l.state ≠ .qaWait ∨ l.holds ≠ [] → ∀ o,
      exec (.qaResult tag id (some o)) s = .next (s.answered tag .qaResult (refusedFor .wrongState)))
    ∧ (∀ st, l.state = .qaWait → l.holds = [] → st = (if s.inReleased x then .released else .complete) →
      exec (.qaResult tag id (some .pass)) s = .next (State.answered tag .qaResult (okWith (.lotState st))
        (lotChanged x (raise (.lotState l.id .qaWait st) (s.setLot x (some { l with route := .routeEnd, state := st }))))))
    ∧ (l.state = .qaWait → l.holds = [] → l.route = .qaSample → l.portions.any Portion.placed = false →
      ∃ t, exec (.qaResult tag id (some .fail)) s = .next t
        ∧ t.host.replies = s.host.replies ++ [.full tag (.request .qaResult) (okWith (.lotState .parked))]
        ∧ t.lot x = some { l with
            route := .qaFailed, state := .parked, holds := [⟨.qa, s.floorTime, 1, l.stepIndex, 0, 0⟩] }
        ∧ (∀ y, y ≠ x → t.lot y = s.lot y) ∧ t.cells = s.cells ∧ t.ports = s.ports ∧ t.waitList = s.waitList
        ∧ t.tallies = s.tallies ∧ t.summaries = s.summaries ∧ t.tickets = s.tickets ∧ t.products = s.products)

/-- The shipment table (R161, R162, R167): SHIP-OPEN fills the lowest free slot with an empty OPEN shipment; SHIP-ADD puts a lot
of the product that no shipment has at the end of the members, SHIP-REMOVE takes one out, and either leaves the shipment OPEN at
progress 0; SHIP-CANCEL frees the slot of an OPEN or CHECKING shipment, and takes the ticket of a RELEASED one, which stays, OPEN,
its members COMPLETE. -/
def Obligations.ShipmentsAreAssembled : Prop :=
  ∀ (tag : BitVec 16) (s : State) (ship : Text), s.takes tag → validName ship →
    (∀ code i k, validCode code → s.findShip ship = none → s.findProduct code = some i → s.freeShip = some k →
      exec (.shipOpen tag ship code) s = .next (State.answered tag .shipOpen (okWith (.slot k))
        (s.setShip k (some ⟨ship, i, .open, [], 0, none⟩))))
    ∧ ∀ k h, s.findShip ship = some k → s.ship k = some h →
      (∀ lot x l, validName lot → s.findLot lot = some x → s.lot x = some l →
        (h.state ≠ .released → l.product = h.product → l.state.direct = false → s.shipOf x = none → x ∉ h.members →
          h.members.length < 16 →
          exec (.shipAdd tag ship lot) s = .next (State.answered tag .shipAdd (okWith (.members (h.members.length + 1)))
            (s.setShip k (some { h with state := .open, progress := 0, members := h.members ++ [x] }))))
        ∧ (h.state ≠ .released → x ∈ h.members → ∀ ms, ms = h.members.filter (fun m => m ≠ x) →
          exec (.shipRemove tag ship lot) s = .next (State.answered tag .shipRemove (okWith (.members ms.length))
            (s.setShip k (some { h with state := .open, progress := 0, members := ms })))))
      ∧ (h.state ≠ .released → exec (.shipCancel tag ship) s = .next (State.answered tag .shipCancel (okWith (.cancelled true))
          (s.setShip k none)))
      ∧ (h.state = .released → (∀ y ∈ h.members, s.shipOf y = some k) → ∃ t, exec (.shipCancel tag ship) s = .next t
        ∧ t.host.replies = s.host.replies ++ [.full tag (.request .shipCancel) (okWith (.cancelled false))]
        ∧ t.ship k = some { h with state := .open, progress := 0, ticket := none }
        ∧ t.tickets = s.tickets.filter (fun v => some v.number ≠ h.ticket)
        ∧ (∀ j, j ≠ k → t.ship j = s.ship j) ∧ (∀ y, y ∉ h.members → t.lot y = s.lot y)
        ∧ (∀ y l, y ∈ h.members → s.lot y = some l → l.state = .released → l.route = .routeEnd →
          t.lot y = some { l with state := .complete })
        ∧ t.cells = s.cells ∧ t.waitList = s.waitList ∧ t.ticketCounter = s.ticketCounter)

/-- SHIP-CHECK (R164, R165): a member that fails a condition invalidates the shipment, and the reply names the lot and the condition; four
members passed with others left leave it CHECKING at its new progress, INCOMPLETE; with every member passed and 8 tickets queued the reply
is QUEUE_FULL; else a ticket joins the queue with the counter's number, the counter moves on to a number no ticket has, the shipment is
RELEASED with it, its COMPLETE lots are RELEASED, and every other lot and shipment, and every product, cell and tally, is as before. A
member fails the first of the five conditions that does not hold: the lot COMPLETE; no hold; every revision of every summary held
APPROVED; every summary within the conservation relation, which O14 spells out, and one for each step so far; the final good of the
current step above 0. -/
def Obligations.ShipChecksLeadToTheTicket : Prop :=
  (∀ (tag : BitVec 16) (s : State) (ship : Text) (k : ShipSlot) (h : Shipment), s.takes tag → validName ship →
    s.findShip ship = some k → s.ship k = some h → h.state ≠ .released → h.members ≠ [] → h.progress ≤ h.members.length →
    (∀ y ∈ h.members, s.shipOf y = some k) →
    (∀ j x n, j < 4 → (∀ i < j, ∀ y, h.members[h.progress + i]? = some y → memberFailure s y = none) →
      h.members[h.progress + j]? = some x → memberFailure s x = some n →
      exec (.shipCheck tag ship) s = .next (State.answered tag .shipCheck ⟨.refused .wrongState, .checkFail (s.lotId x) n⟩
        (s.setShip k (some { h with state := .open, progress := 0 }))))
    ∧ (h.progress + 4 < h.members.length → (∀ i < 4, ∀ y, h.members[h.progress + i]? = some y → memberFailure s y = none) →
      exec (.shipCheck tag ship) s = .next (State.answered tag .shipCheck ⟨.incomplete, .progress (h.progress + 4)⟩
        (s.setShip k (some { h with state := .checking, progress := h.progress + 4 }))))
    ∧ (h.members.length ≤ h.progress + 4 → (∀ i < 4, ∀ y, h.members[h.progress + i]? = some y → memberFailure s y = none) →
      (8 ≤ s.tickets.length →
        exec (.shipCheck tag ship) s = .next (State.answered tag .shipCheck ⟨.refused .queueFull, .progress h.members.length⟩
          (s.setShip k (some { h with state := .checking, progress := h.members.length }))))
      ∧ (s.tickets.length < 8 → ∃ t v, exec (.shipCheck tag ship) s = .next t
        ∧ v.number = s.ticketCounter ∧ v.shipment = h.id ∧ v.product = s.productCode h.product ∧ v.lots = h.members.length
        ∧ v.total = (h.members.map fun y => ((s.lot y).map fun l => s.finalGood y l.stepIndex).getD 0).sum ∧ v.time = s.floorTime
        ∧ t.tickets = s.tickets ++ [v] ∧ (∀ w ∈ t.tickets, w.number ≠ t.ticketCounter)
        ∧ t.host.replies = s.host.replies ++ [.full tag (.request .shipCheck) (okWith (.ticket v))]
        ∧ t.ship k = some { h with state := .released, progress := h.members.length, ticket := some v.number }
        ∧ (∀ j, j ≠ k → t.ship j = s.ship j) ∧ (∀ y, y ∉ h.members → t.lot y = s.lot y)
        ∧ (∀ y l, y ∈ h.members → s.lot y = some l → l.state = .complete → l.route = .routeEnd →
          t.lot y = some { l with state := .released })
        ∧ t.cells = s.cells ∧ t.products = s.products ∧ t.tallies = s.tallies ∧ t.summaries = s.summaries ∧ t.catalog = s.catalog)))
  ∧ ∀ (s : State) (y : LotSlot) (l : Lot) (fails : Nat → Prop), s.lot y = some l →
    fails = (fun n => n = 1 ∧ l.state ≠ .complete
      ∨ n = 2 ∧ l.holds ≠ []
      ∨ n = 3 ∧ (∃ k u r, s.summary y k = some u ∧ r ∈ u.revisions ∧ (s.entry u.program r).map (·.state) ≠ some .approved)
      ∨ n = 4 ∧ ((∃ k u, s.summary y k = some u ∧ conserves s y l u = false)
        ∨ ∃ k, 1 ≤ k ∧ k ≤ l.stepIndex ∧ s.summary y k = none)
      ∨ n = 5 ∧ ∀ u, s.summary y l.stepIndex = some u → u.finalGood = 0) →
    (memberFailure s y = none ↔ ∀ n, ¬ fails n) ∧ ∀ n, memberFailure s y = some n ↔ fails n ∧ ∀ i, i < n → ¬ fails i

/-- SHIP-ACCEPT of a queued ticket (R42, R147, R166): the ticket leaves the queue, every member of its shipment is CLOSED with nothing
else of its record changed, each product has its closed lots fewer live, the eligible members teach the baselines one after another
(R147), the shipment's slot is free, and no other lot, shipment, cell, tally, summary or catalog entry changes (the members here name no
other shipment); a number that no queued ticket has is refused NOT_FOUND, and 0 BAD_FIELD. An accepted lot teaches nothing when it is
ineligible. Else each step with a summary is taken: where its first-pass T is below M, or 0, nothing changes; where it is not, the
baseline of every monitored bin is updated once with the fraction of its first-pass count, and no other baseline changes. A step without a
summary teaches nothing, which is the model's choice (assumption 41). -/
def Obligations.AcceptedShipmentsCloseTheirLots : Prop :=
  (∀ (tag : BitVec 16) (s : State) (n : Nat), s.takes tag →
    exec (.shipAccept tag 0) s = .next (s.answered tag .shipAccept (refusedFor .badField))
    ∧ (n ≠ 0 → (∀ v ∈ s.tickets, v.number ≠ n) →
      exec (.shipAccept tag n) s = .next (s.answered tag .shipAccept (refusedFor .notFound)))
    ∧ ∀ v k h, n ≠ 0 → s.tickets.find? (fun v => v.number = n) = some v → s.shipOfTicket n = some k → s.ship k = some h →
      (∀ y ∈ h.members, s.shipOf y = some k) →
      ∃ t, exec (.shipAccept tag n) s = .next t
        ∧ t.host.replies = s.host.replies ++ [.full tag (.request .shipAccept) (okWith (.accepted n v.shipment v.lots v.total))]
        ∧ t.tickets = s.tickets.filter (fun v => v.number ≠ n) ∧ t.ship k = none ∧ (∀ j, j ≠ k → t.ship j = s.ship j)
        ∧ (∀ y l, y ∈ h.members → s.lot y = some l → t.lot y = some { l with state := .closed })
        ∧ (∀ i, t.product i = (s.product i).map fun p =>
          { p with live := p.live - (h.members.filter fun y => (s.lot y).map (·.product) = some i).length })
        ∧ t.baselines = (h.members.foldl (fun u y => match s.lot y with | some l => acceptedLot y l u | none => u) s).baselines
        ∧ ((∀ y l, y ∈ h.members → s.lot y = some l → l.baselineEligible = false) → t.baselines = s.baselines)
        ∧ (∀ y, y ∉ h.members → t.lot y = s.lot y) ∧ t.cells = s.cells ∧ t.ports = s.ports ∧ t.tallies = s.tallies
        ∧ t.summaries = s.summaries ∧ t.catalog = s.catalog ∧ t.waitList = s.waitList ∧ t.ticketCounter = s.ticketCounter)
  ∧ ∀ (u t : State) (y : LotSlot) (l : Lot), t = acceptedLot y l u →
    t = { u with baselines := t.baselines } ∧ (l.baselineEligible = false → t = u)
    ∧ (∀ i k b, i ≠ l.product → t.baseline i k b = u.baseline i k b)
    ∧ ∀ p k, u.product l.product = some p →
      (u.summary y k = none ∨ p.step k = none → ∀ b, t.baseline l.product k b = u.baseline l.product k b)
      ∧ ∀ st m, l.baselineEligible → p.step k = some st → u.summary y k = some m → (st.limits.entries.map (·.bin)).Nodup →
        (∀ e ∈ st.limits.entries, 2 ≤ e.bin ∧ e.bin ≤ 16) →
        (m.firstT < st.limits.minSample ∨ m.firstT = 0 → ∀ b, t.baseline l.product k b = u.baseline l.product k b)
        ∧ (st.limits.minSample ≤ m.firstT → m.firstT ≠ 0 → ∀ b,
          (b ∈ st.limits.entries.map (·.bin) → t.baseline l.product k b
            = updateBaseline (u.baseline l.product k b) (fraction (m.firstCounts.bin b) m.firstT))
          ∧ (b ∉ st.limits.entries.map (·.bin) → t.baseline l.product k b = u.baseline l.product k b))

/-! ### Whole-machine statements -/

/-- Units never appear or vanish: every step keeps the counts of every portion of every lot closed (Q = T + R + L + H), and no lot gets
two portions of one number; no premise beside the two is needed, so the statement chains over every run. That START leaves the units of H
in H is R24's "moves R into H": H is 0 there (R49) but in states that only a lot context record a host composes leads to (assumption
43). And each move of units by itself: a new portion's counts close, and START, a tallied group within H, a purge with any count, a
lost purge and a scrap each keep them closed and keep Q; a purge settles H whole, and a purge count above H counts as H (R23 to R25,
R35). -/
def Obligations.UnitsAreConserved : Prop :=
  (∀ s t : State, s.unitsClose → step s = .next t → t.unitsClose)
  ∧ (∀ number q, (newPortion number q).closes)
  ∧ ∀ p : Portion, p.closes →
    (startPortion p).closes ∧ (startPortion p).q = p.q ∧ (startPortion p).h = p.h + p.r ∧ (startPortion p).r = 0
    ∧ (∀ g time, g ≤ p.h → (tallyPortion g time p).closes ∧ (tallyPortion g time p).q = p.q)
    ∧ (∀ f, (settlePurged f p).closes ∧ (settlePurged f p).q = p.q ∧ (settlePurged f p).t = p.t ∧ (settlePurged f p).h = 0
      ∧ (p.h ≤ f → settlePurged f p = settlePurged p.h p))
    ∧ (settleLost p).closes ∧ (settleLost p).q = p.q ∧ (settleLost p).h = 0
    ∧ ∀ time, (scrapPortion time p).closes ∧ (scrapPortion time p).q = p.q ∧ (scrapPortion time p).r = 0

/-- Every frame that a line carries whole is proved, whatever follows it, and a frame with one byte changed after its length bytes
is never proved (R105 to R107, R172, R173, R187); the two length bytes are left out, since a changed length asks for other bytes. A
result's and a LOAD-DATA's fields are read from its body as they were laid into it (R189), and so is a fixed text field (R186). A
reply is a frame of kind 80 hex with the tag and the kind of its request, a busy one REFUSED with QUEUE_FULL and no more (R176, R188);
a mask, a site set and two floor times follow the three bytes of an OK reply in 1, 1 and twice 4 bytes (R186; the order of the times is
a reading, assumption 2); the reply to a SHIP-QUERY that names no shipment holds the tickets' records one after another, each whole
(R168, R189; a count may stand before them, assumption 2). A report is a frame of tag 0 whose body begins with its time and its lost
count (R179, R188), and its fields stand whole after them in their forms of R186, in an order left open (assumption 2): a lot id in 16
bytes, kits in 8, an image offset in 3, a counter and a check in 4, a number of at most 65,535 in 2 to 4, the switched-off flags of a
flags byte and its unused bits 0. No frame has a
body above 1,200 bytes, and no two kinds of request and report, REPLY among them, have one code, so that a receiver knows each frame by
the kind alone (R172); which codes those are that the manual does not list is left open (assumption 2). -/
def Obligations.WholeFramesAreProvedAndDamagedOnesFail : Prop :=
  (∀ (kind : Byte) (body rest : List Byte), body.length ≤ 300 →
    judgeCell ((cellFrame kind body).tail ++ rest) = .proved (kind :: body) rest)
  ∧ (∀ (kind : Byte) (tag : BitVec 16) (body rest : List Byte), body.length ≤ 1200 →
    judgeHost ((hostFrame kind tag body).tail ++ rest) = .proved (kind :: (be16 tag ++ body)) rest)
  ∧ (∀ (kind : Byte) (body : List Byte) (i : Nat) (b : Byte), body.length ≤ 300 → 2 ≤ i → i < body.length + 5 →
    (cellFrame kind body).tail[i]? ≠ some b → judgeCell ((cellFrame kind body).tail.set i b) = .failed)
  ∧ (∀ (kind : Byte) (tag : BitVec 16) (body : List Byte) (i : Nat) (b : Byte), body.length ≤ 1200 → 2 ≤ i → i < body.length + 7 →
    (hostFrame kind tag body).tail[i]? ≠ some b → judgeHost ((hostFrame kind tag body).tail.set i b) = .failed)
  ∧ (∀ (cell offset : Nat) (data : List Byte), cell < 256 → offset < 16777216 → 1 ≤ data.length → data.length ≤ 256 →
    readLoadData (loadDataBody cell offset data) = some (cell, offset, data))
  ∧ (∀ (width : Nat) (t : Text), validText width t → readFixedText (fixedText width t) = .value t)
  ∧ (∀ (tag : BitVec 16) (kind : ReplyKind) (a : Answer), ∃ fields,
    ReplyEntry.frame (.full tag kind a) = hostFrame 0x80 tag (kind.byte :: (a.status.bytes ++ fields)) ∧ fields.length ≤ 1197
    ∧ ReplyEntry.frame (.busy tag kind) = hostFrame 0x80 tag [kind.byte, 0x02, 0x0A])
  ∧ (∀ (tag : BitVec 16) (kind : ReplyKind) (m : Mask) (sites : SiteSet) (before taken : Nat),
    ReplyEntry.frame (.full tag kind ⟨.ok, .mask m⟩) = hostFrame 0x80 tag [kind.byte, 0, 0, if m = .masked then 1 else 0]
    ∧ ReplyEntry.frame (.full tag kind ⟨.ok, .sites sites⟩) = hostFrame 0x80 tag [kind.byte, 0, 0, sites]
    ∧ ReplyEntry.frame (.full tag kind ⟨.ok, .time before taken⟩) = hostFrame 0x80 tag ([kind.byte, 0, 0] ++ num32 before ++ num32 taken))
  ∧ (∀ (q : QueuedReport) (lost : Nat), ∃ fields,
    q.frame lost = hostFrame q.report.kindByte 0 (num32 q.time ++ num8 lost ++ fields)
    ∧ ((∀ v lots, q.report = .ticket v lots → lots.length ≤ 16) → fields.length ≤ 1195)
    ∧ (∀ lot reason step portion detail, q.report = .holdRaised lot reason step portion detail → fixedText 16 lot <:+: fields
      ∧ ∃ width, 2 ≤ width ∧ width ≤ 4 ∧ (num32 detail).drop (4 - width) <:+: fields)
    ∧ (∀ cell lot portion wanted installed, q.report = .changeover cell lot portion wanted installed →
      fixedText 16 lot <:+: fields ∧ fixedText 8 wanted <:+: fields ∧ fixedText 8 (installed.getD []) <:+: fields)
    ∧ (∀ cell program offset length, q.report = .loadWant cell program offset length → offset < 16777216 →
      fixedText 16 program.name <:+: fields ∧ be24 (BitVec.ofNat 24 offset) <:+: fields)
    ∧ (∀ cell program error counted relayed length a b check, q.report = .loadDone cell program error counted relayed length a b (some check) →
      be32 check <:+: fields)
    ∧ (∀ cell counter most, q.report = .maintenance cell counter most → num32 counter <:+: fields ∧ num32 most <:+: fields)
    ∧ ∀ cell old new fault, q.report = .cellState cell old new ⟨false, false, false⟩ fault → [0] <:+: fields)
  ∧ (∀ (tag : BitVec 16) (kind : ReplyKind) (ships : List ShipView) (tickets : List Ticket) (counter : Nat), ships.length ≤ 8 →
    tickets.length ≤ 8 → ∃ before after, ReplyEntry.frame (.full tag kind ⟨.ok, .shipments ships tickets counter⟩)
      = hostFrame 0x80 tag ([kind.byte, 0, 0] ++ before ++ tickets.flatMap Ticket.bytes ++ after))
  ∧ ((∀ j k, requestByte j = requestByte k → j = k) ∧ (∀ a b : Report, a.kindByte = b.kindByte → a.ctorIdx = b.ctorIdx)
    ∧ (∀ k (a : Report), requestByte k ≠ a.kindByte ∧ requestByte k ≠ 0x80 ∧ a.kindByte ≠ 0x80))
  ∧ ∀ (td : BitVec 16) (a b flags : Byte), readSiteResult (siteResultBody td a b flags) = some (td, a, b, flags)
    ∧ readGroupEnd (groupEndBody td a flags) = some (td, a, flags)

/-- Every step keeps the bounds of the Host Link Unit: at most 8 full replies and at most 8 busy entries, at most 64 reports, and
its three counts at most 255 (R173, R176, R179). -/
def Obligations.HostQueuesStayBounded : Prop :=
  ∀ s t : State, s.host.bounded → step s = .next t → t.host.bounded

/-- Every step keeps the records sound: at most 8 tickets of distinct numbers from 1 to 65,535, the ticket counter at a number
that none of them has (R165); at most 32 catalog entries, distinct and in range (R12); aging limit, floor time and registration
counter in range (R19, R85, R180). And it keeps every step summary under its step index (R155). -/
def Obligations.RecordsStaySound : Prop :=
  (∀ s t : State, s.ticketsSound → s.catalogSound → s.countersInRange → step s = .next t →
    t.ticketsSound ∧ t.catalogSound ∧ t.countersInRange)
  ∧ ∀ s t : State, s.summariesPlaced → step s = .next t → t.summariesPlaced

/-- Every step keeps each cell port's transmit list to 32 frames, its intake queue to 16 records and its group to 8 results (R110,
R111, R114). -/
def Obligations.PortQueuesStayBounded : Prop :=
  ∀ s t : State, s.portsBounded → step s = .next t → t.portsBounded

/-- The machine after cold reset meets every invariant, and holds what the manual gives it: no product, lot, shipment or ticket,
aging limit 4, ticket counter 1, grant pointer 15, 8 free buffers, every cell OFFLINE (R1, R12, R19, R69, R86, R90, R121, R170,
R180, R184; the line speed of low straps is the model's choice, assumption 1). -/
def Obligations.ResetIsSound : Prop :=
  State.reset.host.bounded ∧ State.reset.ticketsSound ∧ State.reset.catalogSound ∧ State.reset.countersInRange
  ∧ State.reset.summariesPlaced
  ∧ State.reset.portsBounded ∧ State.reset.unitsClose ∧ (∀ i, State.reset.product i = none) ∧ (∀ x, State.reset.lot x = none) ∧ (∀ k, State.reset.ship k = none)
  ∧ State.reset.tickets = [] ∧ State.reset.agingLimit = 4 ∧ State.reset.ticketCounter = 1 ∧ State.reset.grantPointer = 15
  ∧ (∀ b : Fin 8, State.reset.buffers.get b = .free) ∧ State.reset.floorTime = 0 ∧ State.reset.noCellWaits
  ∧ ∀ c, (State.reset.cell c).state = .offline ∧ (State.reset.cell c).configured = false ∧ (State.reset.load c).state = .idle
    ∧ (State.reset.port c).resultCheck = 0xFFFF ∧ (State.reset.port c).rx = ⟨false, none⟩
end

