-- ==== Sys2Proof/Laws/State.lean ====
section
/-! SUPPORT. The small lemmas of the record updates of State: for each update, each field it leaves alone, and what it leaves in the
one it changes. No later proof unfolds an update. -/

namespace Sys2Proof.Machine

open Sys2Proof

/-! ### Vectors of records -/

/-- A place of a vector written and read again. -/
theorem get_set_same {α : Type} {n : Nat} (v : Vector α n) (i : Fin n) (x : α) : (v.set i.val x i.isLt).get i = x := by
  simp [Vector.get_eq_getElem]

/-- Another place than the one written reads as before. -/
theorem get_set_other {α : Type} {n : Nat} (v : Vector α n) (i j : Fin n) (x : α) (h : i ≠ j) :
    (v.set i.val x i.isLt).get j = v.get j := by
  have : i.val ≠ j.val := fun e => h (Fin.ext e)
  simp [Vector.get_eq_getElem, this]

/-- What a place reads as after a write. -/
theorem get_set {α : Type} {n : Nat} (v : Vector α n) (i j : Fin n) (x : α) :
    (v.set i.val x i.isLt).get j = if i = j then x else v.get j := by
  by_cases h : i = j
  · subst h; simp [get_set_same]
  · simp [h, get_set_other v i j x h]

/-- A vector of equal values reads as that value everywhere. -/
theorem get_replicate {α : Type} {n : Nat} (x : α) (i : Fin n) : (Vector.replicate n x).get i = x := by
  simp [Vector.get_eq_getElem]

/-! ### Fields an update leaves alone -/

@[simp] theorem setCell_pending (s : State) (c : CellId) (x : Cell) : (s.setCell c x).pending = s.pending := rfl
@[simp] theorem setCell_products (s : State) (c : CellId) (x : Cell) : (s.setCell c x).products = s.products := rfl
@[simp] theorem setCell_catalog (s : State) (c : CellId) (x : Cell) : (s.setCell c x).catalog = s.catalog := rfl
@[simp] theorem setCell_lots (s : State) (c : CellId) (x : Cell) : (s.setCell c x).lots = s.lots := rfl
@[simp] theorem setCell_regCounter (s : State) (c : CellId) (x : Cell) : (s.setCell c x).regCounter = s.regCounter := rfl
@[simp] theorem setCell_waitList (s : State) (c : CellId) (x : Cell) : (s.setCell c x).waitList = s.waitList := rfl
@[simp] theorem setCell_waiting (s : State) (c : CellId) (x : Cell) : (s.setCell c x).waiting = s.waiting := rfl
@[simp] theorem setCell_pointer (s : State) (c : CellId) (x : Cell) : (s.setCell c x).pointer = s.pointer := rfl
@[simp] theorem setCell_agingLimit (s : State) (c : CellId) (x : Cell) : (s.setCell c x).agingLimit = s.agingLimit := rfl
@[simp] theorem setCell_loads (s : State) (c : CellId) (x : Cell) : (s.setCell c x).loads = s.loads := rfl
@[simp] theorem setCell_bufferWaiting (s : State) (c : CellId) (x : Cell) : (s.setCell c x).bufferWaiting = s.bufferWaiting := rfl
@[simp] theorem setCell_grantPointer (s : State) (c : CellId) (x : Cell) : (s.setCell c x).grantPointer = s.grantPointer := rfl
@[simp] theorem setCell_buffers (s : State) (c : CellId) (x : Cell) : (s.setCell c x).buffers = s.buffers := rfl
@[simp] theorem setCell_ports (s : State) (c : CellId) (x : Cell) : (s.setCell c x).ports = s.ports := rfl
@[simp] theorem setCell_tallies (s : State) (c : CellId) (x : Cell) : (s.setCell c x).tallies = s.tallies := rfl
@[simp] theorem setCell_runGroups (s : State) (c : CellId) (x : Cell) : (s.setCell c x).runGroups = s.runGroups := rfl
@[simp] theorem setCell_baselines (s : State) (c : CellId) (x : Cell) : (s.setCell c x).baselines = s.baselines := rfl
@[simp] theorem setCell_summaries (s : State) (c : CellId) (x : Cell) : (s.setCell c x).summaries = s.summaries := rfl
@[simp] theorem setCell_checkMarks (s : State) (c : CellId) (x : Cell) : (s.setCell c x).checkMarks = s.checkMarks := rfl
@[simp] theorem setCell_ships (s : State) (c : CellId) (x : Cell) : (s.setCell c x).ships = s.ships := rfl
@[simp] theorem setCell_tickets (s : State) (c : CellId) (x : Cell) : (s.setCell c x).tickets = s.tickets := rfl
@[simp] theorem setCell_ticketCounter (s : State) (c : CellId) (x : Cell) : (s.setCell c x).ticketCounter = s.ticketCounter := rfl
@[simp] theorem setCell_host (s : State) (c : CellId) (x : Cell) : (s.setCell c x).host = s.host := rfl
@[simp] theorem setCell_floorTime (s : State) (c : CellId) (x : Cell) : (s.setCell c x).floorTime = s.floorTime := rfl
@[simp] theorem setCell_secondPhase (s : State) (c : CellId) (x : Cell) : (s.setCell c x).secondPhase = s.secondPhase := rfl
@[simp] theorem setCell_freeTick (s : State) (c : CellId) (x : Cell) : (s.setCell c x).freeTick = s.freeTick := rfl
@[simp] theorem setCell_port (s : State) (c : CellId) (x : Cell) (d : CellId) : (s.setCell c x).port d = s.port d := rfl
@[simp] theorem setCell_load (s : State) (c : CellId) (x : Cell) (d : CellId) : (s.setCell c x).load d = s.load d := rfl
@[simp] theorem setCell_lot (s : State) (c : CellId) (x : Cell) (y : LotSlot) : (s.setCell c x).lot y = s.lot y := rfl
@[simp] theorem setCell_product (s : State) (c : CellId) (x : Cell) (j : ProductIx) : (s.setCell c x).product j = s.product j := rfl
@[simp] theorem setCell_tally (s : State) (c : CellId) (x : Cell) (y : LotSlot) : (s.setCell c x).tally y = s.tally y := rfl
@[simp] theorem setCell_ship (s : State) (c : CellId) (x : Cell) (j : ShipSlot) : (s.setCell c x).ship j = s.ship j := rfl
@[simp] theorem setCell_checkMark (s : State) (c : CellId) (x : Cell) (y : LotSlot) : (s.setCell c x).checkMark y = s.checkMark y := rfl

@[simp] theorem modCell_pending (s : State) (c : CellId) (f : Cell → Cell) : (modCell c f s).pending = s.pending := rfl
@[simp] theorem modCell_products (s : State) (c : CellId) (f : Cell → Cell) : (modCell c f s).products = s.products := rfl
@[simp] theorem modCell_catalog (s : State) (c : CellId) (f : Cell → Cell) : (modCell c f s).catalog = s.catalog := rfl
@[simp] theorem modCell_lots (s : State) (c : CellId) (f : Cell → Cell) : (modCell c f s).lots = s.lots := rfl
@[simp] theorem modCell_regCounter (s : State) (c : CellId) (f : Cell → Cell) : (modCell c f s).regCounter = s.regCounter := rfl
@[simp] theorem modCell_waitList (s : State) (c : CellId) (f : Cell → Cell) : (modCell c f s).waitList = s.waitList := rfl
@[simp] theorem modCell_waiting (s : State) (c : CellId) (f : Cell → Cell) : (modCell c f s).waiting = s.waiting := rfl
@[simp] theorem modCell_pointer (s : State) (c : CellId) (f : Cell → Cell) : (modCell c f s).pointer = s.pointer := rfl
@[simp] theorem modCell_agingLimit (s : State) (c : CellId) (f : Cell → Cell) : (modCell c f s).agingLimit = s.agingLimit := rfl
@[simp] theorem modCell_loads (s : State) (c : CellId) (f : Cell → Cell) : (modCell c f s).loads = s.loads := rfl
@[simp] theorem modCell_bufferWaiting (s : State) (c : CellId) (f : Cell → Cell) : (modCell c f s).bufferWaiting = s.bufferWaiting := rfl
@[simp] theorem modCell_grantPointer (s : State) (c : CellId) (f : Cell → Cell) : (modCell c f s).grantPointer = s.grantPointer := rfl
@[simp] theorem modCell_buffers (s : State) (c : CellId) (f : Cell → Cell) : (modCell c f s).buffers = s.buffers := rfl
@[simp] theorem modCell_ports (s : State) (c : CellId) (f : Cell → Cell) : (modCell c f s).ports = s.ports := rfl
@[simp] theorem modCell_tallies (s : State) (c : CellId) (f : Cell → Cell) : (modCell c f s).tallies = s.tallies := rfl
@[simp] theorem modCell_runGroups (s : State) (c : CellId) (f : Cell → Cell) : (modCell c f s).runGroups = s.runGroups := rfl
@[simp] theorem modCell_baselines (s : State) (c : CellId) (f : Cell → Cell) : (modCell c f s).baselines = s.baselines := rfl
@[simp] theorem modCell_summaries (s : State) (c : CellId) (f : Cell → Cell) : (modCell c f s).summaries = s.summaries := rfl
@[simp] theorem modCell_checkMarks (s : State) (c : CellId) (f : Cell → Cell) : (modCell c f s).checkMarks = s.checkMarks := rfl
@[simp] theorem modCell_ships (s : State) (c : CellId) (f : Cell → Cell) : (modCell c f s).ships = s.ships := rfl
@[simp] theorem modCell_tickets (s : State) (c : CellId) (f : Cell → Cell) : (modCell c f s).tickets = s.tickets := rfl
@[simp] theorem modCell_ticketCounter (s : State) (c : CellId) (f : Cell → Cell) : (modCell c f s).ticketCounter = s.ticketCounter := rfl
@[simp] theorem modCell_host (s : State) (c : CellId) (f : Cell → Cell) : (modCell c f s).host = s.host := rfl
@[simp] theorem modCell_floorTime (s : State) (c : CellId) (f : Cell → Cell) : (modCell c f s).floorTime = s.floorTime := rfl
@[simp] theorem modCell_secondPhase (s : State) (c : CellId) (f : Cell → Cell) : (modCell c f s).secondPhase = s.secondPhase := rfl
@[simp] theorem modCell_freeTick (s : State) (c : CellId) (f : Cell → Cell) : (modCell c f s).freeTick = s.freeTick := rfl
@[simp] theorem modCell_port (s : State) (c : CellId) (f : Cell → Cell) (d : CellId) : (modCell c f s).port d = s.port d := rfl
@[simp] theorem modCell_load (s : State) (c : CellId) (f : Cell → Cell) (d : CellId) : (modCell c f s).load d = s.load d := rfl
@[simp] theorem modCell_lot (s : State) (c : CellId) (f : Cell → Cell) (y : LotSlot) : (modCell c f s).lot y = s.lot y := rfl
@[simp] theorem modCell_product (s : State) (c : CellId) (f : Cell → Cell) (j : ProductIx) : (modCell c f s).product j = s.product j := rfl
@[simp] theorem modCell_tally (s : State) (c : CellId) (f : Cell → Cell) (y : LotSlot) : (modCell c f s).tally y = s.tally y := rfl
@[simp] theorem modCell_ship (s : State) (c : CellId) (f : Cell → Cell) (j : ShipSlot) : (modCell c f s).ship j = s.ship j := rfl
@[simp] theorem modCell_checkMark (s : State) (c : CellId) (f : Cell → Cell) (y : LotSlot) : (modCell c f s).checkMark y = s.checkMark y := rfl

@[simp] theorem modPort_pending (s : State) (c : CellId) (f : Port → Port) : (modPort c f s).pending = s.pending := rfl
@[simp] theorem modPort_products (s : State) (c : CellId) (f : Port → Port) : (modPort c f s).products = s.products := rfl
@[simp] theorem modPort_catalog (s : State) (c : CellId) (f : Port → Port) : (modPort c f s).catalog = s.catalog := rfl
@[simp] theorem modPort_lots (s : State) (c : CellId) (f : Port → Port) : (modPort c f s).lots = s.lots := rfl
@[simp] theorem modPort_regCounter (s : State) (c : CellId) (f : Port → Port) : (modPort c f s).regCounter = s.regCounter := rfl
@[simp] theorem modPort_waitList (s : State) (c : CellId) (f : Port → Port) : (modPort c f s).waitList = s.waitList := rfl
@[simp] theorem modPort_waiting (s : State) (c : CellId) (f : Port → Port) : (modPort c f s).waiting = s.waiting := rfl
@[simp] theorem modPort_pointer (s : State) (c : CellId) (f : Port → Port) : (modPort c f s).pointer = s.pointer := rfl
@[simp] theorem modPort_agingLimit (s : State) (c : CellId) (f : Port → Port) : (modPort c f s).agingLimit = s.agingLimit := rfl
@[simp] theorem modPort_cells (s : State) (c : CellId) (f : Port → Port) : (modPort c f s).cells = s.cells := rfl
@[simp] theorem modPort_loads (s : State) (c : CellId) (f : Port → Port) : (modPort c f s).loads = s.loads := rfl
@[simp] theorem modPort_bufferWaiting (s : State) (c : CellId) (f : Port → Port) : (modPort c f s).bufferWaiting = s.bufferWaiting := rfl
@[simp] theorem modPort_grantPointer (s : State) (c : CellId) (f : Port → Port) : (modPort c f s).grantPointer = s.grantPointer := rfl
@[simp] theorem modPort_buffers (s : State) (c : CellId) (f : Port → Port) : (modPort c f s).buffers = s.buffers := rfl
@[simp] theorem modPort_tallies (s : State) (c : CellId) (f : Port → Port) : (modPort c f s).tallies = s.tallies := rfl
@[simp] theorem modPort_runGroups (s : State) (c : CellId) (f : Port → Port) : (modPort c f s).runGroups = s.runGroups := rfl
@[simp] theorem modPort_baselines (s : State) (c : CellId) (f : Port → Port) : (modPort c f s).baselines = s.baselines := rfl
@[simp] theorem modPort_summaries (s : State) (c : CellId) (f : Port → Port) : (modPort c f s).summaries = s.summaries := rfl
@[simp] theorem modPort_checkMarks (s : State) (c : CellId) (f : Port → Port) : (modPort c f s).checkMarks = s.checkMarks := rfl
@[simp] theorem modPort_ships (s : State) (c : CellId) (f : Port → Port) : (modPort c f s).ships = s.ships := rfl
@[simp] theorem modPort_tickets (s : State) (c : CellId) (f : Port → Port) : (modPort c f s).tickets = s.tickets := rfl
@[simp] theorem modPort_ticketCounter (s : State) (c : CellId) (f : Port → Port) : (modPort c f s).ticketCounter = s.ticketCounter := rfl
@[simp] theorem modPort_host (s : State) (c : CellId) (f : Port → Port) : (modPort c f s).host = s.host := rfl
@[simp] theorem modPort_floorTime (s : State) (c : CellId) (f : Port → Port) : (modPort c f s).floorTime = s.floorTime := rfl
@[simp] theorem modPort_secondPhase (s : State) (c : CellId) (f : Port → Port) : (modPort c f s).secondPhase = s.secondPhase := rfl
@[simp] theorem modPort_freeTick (s : State) (c : CellId) (f : Port → Port) : (modPort c f s).freeTick = s.freeTick := rfl
@[simp] theorem modPort_cell (s : State) (c : CellId) (f : Port → Port) (d : CellId) : (modPort c f s).cell d = s.cell d := rfl
@[simp] theorem modPort_load (s : State) (c : CellId) (f : Port → Port) (d : CellId) : (modPort c f s).load d = s.load d := rfl
@[simp] theorem modPort_lot (s : State) (c : CellId) (f : Port → Port) (y : LotSlot) : (modPort c f s).lot y = s.lot y := rfl
@[simp] theorem modPort_product (s : State) (c : CellId) (f : Port → Port) (j : ProductIx) : (modPort c f s).product j = s.product j := rfl
@[simp] theorem modPort_tally (s : State) (c : CellId) (f : Port → Port) (y : LotSlot) : (modPort c f s).tally y = s.tally y := rfl
@[simp] theorem modPort_ship (s : State) (c : CellId) (f : Port → Port) (j : ShipSlot) : (modPort c f s).ship j = s.ship j := rfl
@[simp] theorem modPort_checkMark (s : State) (c : CellId) (f : Port → Port) (y : LotSlot) : (modPort c f s).checkMark y = s.checkMark y := rfl

@[simp] theorem modLoad_pending (s : State) (c : CellId) (f : Load → Load) : (modLoad c f s).pending = s.pending := rfl
@[simp] theorem modLoad_products (s : State) (c : CellId) (f : Load → Load) : (modLoad c f s).products = s.products := rfl
@[simp] theorem modLoad_catalog (s : State) (c : CellId) (f : Load → Load) : (modLoad c f s).catalog = s.catalog := rfl
@[simp] theorem modLoad_lots (s : State) (c : CellId) (f : Load → Load) : (modLoad c f s).lots = s.lots := rfl
@[simp] theorem modLoad_regCounter (s : State) (c : CellId) (f : Load → Load) : (modLoad c f s).regCounter = s.regCounter := rfl
@[simp] theorem modLoad_waitList (s : State) (c : CellId) (f : Load → Load) : (modLoad c f s).waitList = s.waitList := rfl
@[simp] theorem modLoad_waiting (s : State) (c : CellId) (f : Load → Load) : (modLoad c f s).waiting = s.waiting := rfl
@[simp] theorem modLoad_pointer (s : State) (c : CellId) (f : Load → Load) : (modLoad c f s).pointer = s.pointer := rfl
@[simp] theorem modLoad_agingLimit (s : State) (c : CellId) (f : Load → Load) : (modLoad c f s).agingLimit = s.agingLimit := rfl
@[simp] theorem modLoad_cells (s : State) (c : CellId) (f : Load → Load) : (modLoad c f s).cells = s.cells := rfl
@[simp] theorem modLoad_bufferWaiting (s : State) (c : CellId) (f : Load → Load) : (modLoad c f s).bufferWaiting = s.bufferWaiting := rfl
@[simp] theorem modLoad_grantPointer (s : State) (c : CellId) (f : Load → Load) : (modLoad c f s).grantPointer = s.grantPointer := rfl
@[simp] theorem modLoad_buffers (s : State) (c : CellId) (f : Load → Load) : (modLoad c f s).buffers = s.buffers := rfl
@[simp] theorem modLoad_ports (s : State) (c : CellId) (f : Load → Load) : (modLoad c f s).ports = s.ports := rfl
@[simp] theorem modLoad_tallies (s : State) (c : CellId) (f : Load → Load) : (modLoad c f s).tallies = s.tallies := rfl
@[simp] theorem modLoad_runGroups (s : State) (c : CellId) (f : Load → Load) : (modLoad c f s).runGroups = s.runGroups := rfl
@[simp] theorem modLoad_baselines (s : State) (c : CellId) (f : Load → Load) : (modLoad c f s).baselines = s.baselines := rfl
@[simp] theorem modLoad_summaries (s : State) (c : CellId) (f : Load → Load) : (modLoad c f s).summaries = s.summaries := rfl
@[simp] theorem modLoad_checkMarks (s : State) (c : CellId) (f : Load → Load) : (modLoad c f s).checkMarks = s.checkMarks := rfl
@[simp] theorem modLoad_ships (s : State) (c : CellId) (f : Load → Load) : (modLoad c f s).ships = s.ships := rfl
@[simp] theorem modLoad_tickets (s : State) (c : CellId) (f : Load → Load) : (modLoad c f s).tickets = s.tickets := rfl
@[simp] theorem modLoad_ticketCounter (s : State) (c : CellId) (f : Load → Load) : (modLoad c f s).ticketCounter = s.ticketCounter := rfl
@[simp] theorem modLoad_host (s : State) (c : CellId) (f : Load → Load) : (modLoad c f s).host = s.host := rfl
@[simp] theorem modLoad_floorTime (s : State) (c : CellId) (f : Load → Load) : (modLoad c f s).floorTime = s.floorTime := rfl
@[simp] theorem modLoad_secondPhase (s : State) (c : CellId) (f : Load → Load) : (modLoad c f s).secondPhase = s.secondPhase := rfl
@[simp] theorem modLoad_freeTick (s : State) (c : CellId) (f : Load → Load) : (modLoad c f s).freeTick = s.freeTick := rfl
@[simp] theorem modLoad_cell (s : State) (c : CellId) (f : Load → Load) (d : CellId) : (modLoad c f s).cell d = s.cell d := rfl
@[simp] theorem modLoad_port (s : State) (c : CellId) (f : Load → Load) (d : CellId) : (modLoad c f s).port d = s.port d := rfl
@[simp] theorem modLoad_lot (s : State) (c : CellId) (f : Load → Load) (y : LotSlot) : (modLoad c f s).lot y = s.lot y := rfl
@[simp] theorem modLoad_product (s : State) (c : CellId) (f : Load → Load) (j : ProductIx) : (modLoad c f s).product j = s.product j := rfl
@[simp] theorem modLoad_tally (s : State) (c : CellId) (f : Load → Load) (y : LotSlot) : (modLoad c f s).tally y = s.tally y := rfl
@[simp] theorem modLoad_ship (s : State) (c : CellId) (f : Load → Load) (j : ShipSlot) : (modLoad c f s).ship j = s.ship j := rfl
@[simp] theorem modLoad_checkMark (s : State) (c : CellId) (f : Load → Load) (y : LotSlot) : (modLoad c f s).checkMark y = s.checkMark y := rfl

@[simp] theorem setLot_pending (s : State) (x : LotSlot) (l : Option Lot) : (s.setLot x l).pending = s.pending := rfl
@[simp] theorem setLot_products (s : State) (x : LotSlot) (l : Option Lot) : (s.setLot x l).products = s.products := rfl
@[simp] theorem setLot_catalog (s : State) (x : LotSlot) (l : Option Lot) : (s.setLot x l).catalog = s.catalog := rfl
@[simp] theorem setLot_regCounter (s : State) (x : LotSlot) (l : Option Lot) : (s.setLot x l).regCounter = s.regCounter := rfl
@[simp] theorem setLot_waitList (s : State) (x : LotSlot) (l : Option Lot) : (s.setLot x l).waitList = s.waitList := rfl
@[simp] theorem setLot_waiting (s : State) (x : LotSlot) (l : Option Lot) : (s.setLot x l).waiting = s.waiting := rfl
@[simp] theorem setLot_pointer (s : State) (x : LotSlot) (l : Option Lot) : (s.setLot x l).pointer = s.pointer := rfl
@[simp] theorem setLot_agingLimit (s : State) (x : LotSlot) (l : Option Lot) : (s.setLot x l).agingLimit = s.agingLimit := rfl
@[simp] theorem setLot_cells (s : State) (x : LotSlot) (l : Option Lot) : (s.setLot x l).cells = s.cells := rfl
@[simp] theorem setLot_loads (s : State) (x : LotSlot) (l : Option Lot) : (s.setLot x l).loads = s.loads := rfl
@[simp] theorem setLot_bufferWaiting (s : State) (x : LotSlot) (l : Option Lot) : (s.setLot x l).bufferWaiting = s.bufferWaiting := rfl
@[simp] theorem setLot_grantPointer (s : State) (x : LotSlot) (l : Option Lot) : (s.setLot x l).grantPointer = s.grantPointer := rfl
@[simp] theorem setLot_buffers (s : State) (x : LotSlot) (l : Option Lot) : (s.setLot x l).buffers = s.buffers := rfl
@[simp] theorem setLot_ports (s : State) (x : LotSlot) (l : Option Lot) : (s.setLot x l).ports = s.ports := rfl
@[simp] theorem setLot_tallies (s : State) (x : LotSlot) (l : Option Lot) : (s.setLot x l).tallies = s.tallies := rfl
@[simp] theorem setLot_runGroups (s : State) (x : LotSlot) (l : Option Lot) : (s.setLot x l).runGroups = s.runGroups := rfl
@[simp] theorem setLot_baselines (s : State) (x : LotSlot) (l : Option Lot) : (s.setLot x l).baselines = s.baselines := rfl
@[simp] theorem setLot_summaries (s : State) (x : LotSlot) (l : Option Lot) : (s.setLot x l).summaries = s.summaries := rfl
@[simp] theorem setLot_checkMarks (s : State) (x : LotSlot) (l : Option Lot) : (s.setLot x l).checkMarks = s.checkMarks := rfl
@[simp] theorem setLot_ships (s : State) (x : LotSlot) (l : Option Lot) : (s.setLot x l).ships = s.ships := rfl
@[simp] theorem setLot_tickets (s : State) (x : LotSlot) (l : Option Lot) : (s.setLot x l).tickets = s.tickets := rfl
@[simp] theorem setLot_ticketCounter (s : State) (x : LotSlot) (l : Option Lot) : (s.setLot x l).ticketCounter = s.ticketCounter := rfl
@[simp] theorem setLot_host (s : State) (x : LotSlot) (l : Option Lot) : (s.setLot x l).host = s.host := rfl
@[simp] theorem setLot_floorTime (s : State) (x : LotSlot) (l : Option Lot) : (s.setLot x l).floorTime = s.floorTime := rfl
@[simp] theorem setLot_secondPhase (s : State) (x : LotSlot) (l : Option Lot) : (s.setLot x l).secondPhase = s.secondPhase := rfl
@[simp] theorem setLot_freeTick (s : State) (x : LotSlot) (l : Option Lot) : (s.setLot x l).freeTick = s.freeTick := rfl
@[simp] theorem setLot_cell (s : State) (x : LotSlot) (l : Option Lot) (d : CellId) : (s.setLot x l).cell d = s.cell d := rfl
@[simp] theorem setLot_port (s : State) (x : LotSlot) (l : Option Lot) (d : CellId) : (s.setLot x l).port d = s.port d := rfl
@[simp] theorem setLot_load (s : State) (x : LotSlot) (l : Option Lot) (d : CellId) : (s.setLot x l).load d = s.load d := rfl
@[simp] theorem setLot_product (s : State) (x : LotSlot) (l : Option Lot) (j : ProductIx) : (s.setLot x l).product j = s.product j := rfl
@[simp] theorem setLot_tally (s : State) (x : LotSlot) (l : Option Lot) (y : LotSlot) : (s.setLot x l).tally y = s.tally y := rfl
@[simp] theorem setLot_ship (s : State) (x : LotSlot) (l : Option Lot) (j : ShipSlot) : (s.setLot x l).ship j = s.ship j := rfl
@[simp] theorem setLot_checkMark (s : State) (x : LotSlot) (l : Option Lot) (y : LotSlot) : (s.setLot x l).checkMark y = s.checkMark y := rfl

@[simp] theorem modLot_pending (s : State) (x : LotSlot) (f : Lot → Lot) : (modLot x f s).pending = s.pending := rfl
@[simp] theorem modLot_products (s : State) (x : LotSlot) (f : Lot → Lot) : (modLot x f s).products = s.products := rfl
@[simp] theorem modLot_catalog (s : State) (x : LotSlot) (f : Lot → Lot) : (modLot x f s).catalog = s.catalog := rfl
@[simp] theorem modLot_regCounter (s : State) (x : LotSlot) (f : Lot → Lot) : (modLot x f s).regCounter = s.regCounter := rfl
@[simp] theorem modLot_waitList (s : State) (x : LotSlot) (f : Lot → Lot) : (modLot x f s).waitList = s.waitList := rfl
@[simp] theorem modLot_waiting (s : State) (x : LotSlot) (f : Lot → Lot) : (modLot x f s).waiting = s.waiting := rfl
@[simp] theorem modLot_pointer (s : State) (x : LotSlot) (f : Lot → Lot) : (modLot x f s).pointer = s.pointer := rfl
@[simp] theorem modLot_agingLimit (s : State) (x : LotSlot) (f : Lot → Lot) : (modLot x f s).agingLimit = s.agingLimit := rfl
@[simp] theorem modLot_cells (s : State) (x : LotSlot) (f : Lot → Lot) : (modLot x f s).cells = s.cells := rfl
@[simp] theorem modLot_loads (s : State) (x : LotSlot) (f : Lot → Lot) : (modLot x f s).loads = s.loads := rfl
@[simp] theorem modLot_bufferWaiting (s : State) (x : LotSlot) (f : Lot → Lot) : (modLot x f s).bufferWaiting = s.bufferWaiting := rfl
@[simp] theorem modLot_grantPointer (s : State) (x : LotSlot) (f : Lot → Lot) : (modLot x f s).grantPointer = s.grantPointer := rfl
@[simp] theorem modLot_buffers (s : State) (x : LotSlot) (f : Lot → Lot) : (modLot x f s).buffers = s.buffers := rfl
@[simp] theorem modLot_ports (s : State) (x : LotSlot) (f : Lot → Lot) : (modLot x f s).ports = s.ports := rfl
@[simp] theorem modLot_tallies (s : State) (x : LotSlot) (f : Lot → Lot) : (modLot x f s).tallies = s.tallies := rfl
@[simp] theorem modLot_runGroups (s : State) (x : LotSlot) (f : Lot → Lot) : (modLot x f s).runGroups = s.runGroups := rfl
@[simp] theorem modLot_baselines (s : State) (x : LotSlot) (f : Lot → Lot) : (modLot x f s).baselines = s.baselines := rfl
@[simp] theorem modLot_summaries (s : State) (x : LotSlot) (f : Lot → Lot) : (modLot x f s).summaries = s.summaries := rfl
@[simp] theorem modLot_checkMarks (s : State) (x : LotSlot) (f : Lot → Lot) : (modLot x f s).checkMarks = s.checkMarks := rfl
@[simp] theorem modLot_ships (s : State) (x : LotSlot) (f : Lot → Lot) : (modLot x f s).ships = s.ships := rfl
@[simp] theorem modLot_tickets (s : State) (x : LotSlot) (f : Lot → Lot) : (modLot x f s).tickets = s.tickets := rfl
@[simp] theorem modLot_ticketCounter (s : State) (x : LotSlot) (f : Lot → Lot) : (modLot x f s).ticketCounter = s.ticketCounter := rfl
@[simp] theorem modLot_host (s : State) (x : LotSlot) (f : Lot → Lot) : (modLot x f s).host = s.host := rfl
@[simp] theorem modLot_floorTime (s : State) (x : LotSlot) (f : Lot → Lot) : (modLot x f s).floorTime = s.floorTime := rfl
@[simp] theorem modLot_secondPhase (s : State) (x : LotSlot) (f : Lot → Lot) : (modLot x f s).secondPhase = s.secondPhase := rfl
@[simp] theorem modLot_freeTick (s : State) (x : LotSlot) (f : Lot → Lot) : (modLot x f s).freeTick = s.freeTick := rfl
@[simp] theorem modLot_cell (s : State) (x : LotSlot) (f : Lot → Lot) (d : CellId) : (modLot x f s).cell d = s.cell d := rfl
@[simp] theorem modLot_port (s : State) (x : LotSlot) (f : Lot → Lot) (d : CellId) : (modLot x f s).port d = s.port d := rfl
@[simp] theorem modLot_load (s : State) (x : LotSlot) (f : Lot → Lot) (d : CellId) : (modLot x f s).load d = s.load d := rfl
@[simp] theorem modLot_product (s : State) (x : LotSlot) (f : Lot → Lot) (j : ProductIx) : (modLot x f s).product j = s.product j := rfl
@[simp] theorem modLot_tally (s : State) (x : LotSlot) (f : Lot → Lot) (y : LotSlot) : (modLot x f s).tally y = s.tally y := rfl
@[simp] theorem modLot_ship (s : State) (x : LotSlot) (f : Lot → Lot) (j : ShipSlot) : (modLot x f s).ship j = s.ship j := rfl
@[simp] theorem modLot_checkMark (s : State) (x : LotSlot) (f : Lot → Lot) (y : LotSlot) : (modLot x f s).checkMark y = s.checkMark y := rfl

@[simp] theorem setProduct_pending (s : State) (i : ProductIx) (p : Option Product) : (s.setProduct i p).pending = s.pending := rfl
@[simp] theorem setProduct_catalog (s : State) (i : ProductIx) (p : Option Product) : (s.setProduct i p).catalog = s.catalog := rfl
@[simp] theorem setProduct_lots (s : State) (i : ProductIx) (p : Option Product) : (s.setProduct i p).lots = s.lots := rfl
@[simp] theorem setProduct_regCounter (s : State) (i : ProductIx) (p : Option Product) : (s.setProduct i p).regCounter = s.regCounter := rfl
@[simp] theorem setProduct_waitList (s : State) (i : ProductIx) (p : Option Product) : (s.setProduct i p).waitList = s.waitList := rfl
@[simp] theorem setProduct_waiting (s : State) (i : ProductIx) (p : Option Product) : (s.setProduct i p).waiting = s.waiting := rfl
@[simp] theorem setProduct_pointer (s : State) (i : ProductIx) (p : Option Product) : (s.setProduct i p).pointer = s.pointer := rfl
@[simp] theorem setProduct_agingLimit (s : State) (i : ProductIx) (p : Option Product) : (s.setProduct i p).agingLimit = s.agingLimit := rfl
@[simp] theorem setProduct_cells (s : State) (i : ProductIx) (p : Option Product) : (s.setProduct i p).cells = s.cells := rfl
@[simp] theorem setProduct_loads (s : State) (i : ProductIx) (p : Option Product) : (s.setProduct i p).loads = s.loads := rfl
@[simp] theorem setProduct_bufferWaiting (s : State) (i : ProductIx) (p : Option Product) : (s.setProduct i p).bufferWaiting = s.bufferWaiting := rfl
@[simp] theorem setProduct_grantPointer (s : State) (i : ProductIx) (p : Option Product) : (s.setProduct i p).grantPointer = s.grantPointer := rfl
@[simp] theorem setProduct_buffers (s : State) (i : ProductIx) (p : Option Product) : (s.setProduct i p).buffers = s.buffers := rfl
@[simp] theorem setProduct_ports (s : State) (i : ProductIx) (p : Option Product) : (s.setProduct i p).ports = s.ports := rfl
@[simp] theorem setProduct_tallies (s : State) (i : ProductIx) (p : Option Product) : (s.setProduct i p).tallies = s.tallies := rfl
@[simp] theorem setProduct_runGroups (s : State) (i : ProductIx) (p : Option Product) : (s.setProduct i p).runGroups = s.runGroups := rfl
@[simp] theorem setProduct_baselines (s : State) (i : ProductIx) (p : Option Product) : (s.setProduct i p).baselines = s.baselines := rfl
@[simp] theorem setProduct_summaries (s : State) (i : ProductIx) (p : Option Product) : (s.setProduct i p).summaries = s.summaries := rfl
@[simp] theorem setProduct_checkMarks (s : State) (i : ProductIx) (p : Option Product) : (s.setProduct i p).checkMarks = s.checkMarks := rfl
@[simp] theorem setProduct_ships (s : State) (i : ProductIx) (p : Option Product) : (s.setProduct i p).ships = s.ships := rfl
@[simp] theorem setProduct_tickets (s : State) (i : ProductIx) (p : Option Product) : (s.setProduct i p).tickets = s.tickets := rfl
@[simp] theorem setProduct_ticketCounter (s : State) (i : ProductIx) (p : Option Product) : (s.setProduct i p).ticketCounter = s.ticketCounter := rfl
@[simp] theorem setProduct_host (s : State) (i : ProductIx) (p : Option Product) : (s.setProduct i p).host = s.host := rfl
@[simp] theorem setProduct_floorTime (s : State) (i : ProductIx) (p : Option Product) : (s.setProduct i p).floorTime = s.floorTime := rfl
@[simp] theorem setProduct_secondPhase (s : State) (i : ProductIx) (p : Option Product) : (s.setProduct i p).secondPhase = s.secondPhase := rfl
@[simp] theorem setProduct_freeTick (s : State) (i : ProductIx) (p : Option Product) : (s.setProduct i p).freeTick = s.freeTick := rfl
@[simp] theorem setProduct_cell (s : State) (i : ProductIx) (p : Option Product) (d : CellId) : (s.setProduct i p).cell d = s.cell d := rfl
@[simp] theorem setProduct_port (s : State) (i : ProductIx) (p : Option Product) (d : CellId) : (s.setProduct i p).port d = s.port d := rfl
@[simp] theorem setProduct_load (s : State) (i : ProductIx) (p : Option Product) (d : CellId) : (s.setProduct i p).load d = s.load d := rfl
@[simp] theorem setProduct_lot (s : State) (i : ProductIx) (p : Option Product) (y : LotSlot) : (s.setProduct i p).lot y = s.lot y := rfl
@[simp] theorem setProduct_tally (s : State) (i : ProductIx) (p : Option Product) (y : LotSlot) : (s.setProduct i p).tally y = s.tally y := rfl
@[simp] theorem setProduct_ship (s : State) (i : ProductIx) (p : Option Product) (j : ShipSlot) : (s.setProduct i p).ship j = s.ship j := rfl
@[simp] theorem setProduct_checkMark (s : State) (i : ProductIx) (p : Option Product) (y : LotSlot) : (s.setProduct i p).checkMark y = s.checkMark y := rfl

@[simp] theorem modProduct_pending (s : State) (i : ProductIx) (f : Product → Product) : (modProduct i f s).pending = s.pending := rfl
@[simp] theorem modProduct_catalog (s : State) (i : ProductIx) (f : Product → Product) : (modProduct i f s).catalog = s.catalog := rfl
@[simp] theorem modProduct_lots (s : State) (i : ProductIx) (f : Product → Product) : (modProduct i f s).lots = s.lots := rfl
@[simp] theorem modProduct_regCounter (s : State) (i : ProductIx) (f : Product → Product) : (modProduct i f s).regCounter = s.regCounter := rfl
@[simp] theorem modProduct_waitList (s : State) (i : ProductIx) (f : Product → Product) : (modProduct i f s).waitList = s.waitList := rfl
@[simp] theorem modProduct_waiting (s : State) (i : ProductIx) (f : Product → Product) : (modProduct i f s).waiting = s.waiting := rfl
@[simp] theorem modProduct_pointer (s : State) (i : ProductIx) (f : Product → Product) : (modProduct i f s).pointer = s.pointer := rfl
@[simp] theorem modProduct_agingLimit (s : State) (i : ProductIx) (f : Product → Product) : (modProduct i f s).agingLimit = s.agingLimit := rfl
@[simp] theorem modProduct_cells (s : State) (i : ProductIx) (f : Product → Product) : (modProduct i f s).cells = s.cells := rfl
@[simp] theorem modProduct_loads (s : State) (i : ProductIx) (f : Product → Product) : (modProduct i f s).loads = s.loads := rfl
@[simp] theorem modProduct_bufferWaiting (s : State) (i : ProductIx) (f : Product → Product) : (modProduct i f s).bufferWaiting = s.bufferWaiting := rfl
@[simp] theorem modProduct_grantPointer (s : State) (i : ProductIx) (f : Product → Product) : (modProduct i f s).grantPointer = s.grantPointer := rfl
@[simp] theorem modProduct_buffers (s : State) (i : ProductIx) (f : Product → Product) : (modProduct i f s).buffers = s.buffers := rfl
@[simp] theorem modProduct_ports (s : State) (i : ProductIx) (f : Product → Product) : (modProduct i f s).ports = s.ports := rfl
@[simp] theorem modProduct_tallies (s : State) (i : ProductIx) (f : Product → Product) : (modProduct i f s).tallies = s.tallies := rfl
@[simp] theorem modProduct_runGroups (s : State) (i : ProductIx) (f : Product → Product) : (modProduct i f s).runGroups = s.runGroups := rfl
@[simp] theorem modProduct_baselines (s : State) (i : ProductIx) (f : Product → Product) : (modProduct i f s).baselines = s.baselines := rfl
@[simp] theorem modProduct_summaries (s : State) (i : ProductIx) (f : Product → Product) : (modProduct i f s).summaries = s.summaries := rfl
@[simp] theorem modProduct_checkMarks (s : State) (i : ProductIx) (f : Product → Product) : (modProduct i f s).checkMarks = s.checkMarks := rfl
@[simp] theorem modProduct_ships (s : State) (i : ProductIx) (f : Product → Product) : (modProduct i f s).ships = s.ships := rfl
@[simp] theorem modProduct_tickets (s : State) (i : ProductIx) (f : Product → Product) : (modProduct i f s).tickets = s.tickets := rfl
@[simp] theorem modProduct_ticketCounter (s : State) (i : ProductIx) (f : Product → Product) : (modProduct i f s).ticketCounter = s.ticketCounter := rfl
@[simp] theorem modProduct_host (s : State) (i : ProductIx) (f : Product → Product) : (modProduct i f s).host = s.host := rfl
@[simp] theorem modProduct_floorTime (s : State) (i : ProductIx) (f : Product → Product) : (modProduct i f s).floorTime = s.floorTime := rfl
@[simp] theorem modProduct_secondPhase (s : State) (i : ProductIx) (f : Product → Product) : (modProduct i f s).secondPhase = s.secondPhase := rfl
@[simp] theorem modProduct_freeTick (s : State) (i : ProductIx) (f : Product → Product) : (modProduct i f s).freeTick = s.freeTick := rfl
@[simp] theorem modProduct_cell (s : State) (i : ProductIx) (f : Product → Product) (d : CellId) : (modProduct i f s).cell d = s.cell d := rfl
@[simp] theorem modProduct_port (s : State) (i : ProductIx) (f : Product → Product) (d : CellId) : (modProduct i f s).port d = s.port d := rfl
@[simp] theorem modProduct_load (s : State) (i : ProductIx) (f : Product → Product) (d : CellId) : (modProduct i f s).load d = s.load d := rfl
@[simp] theorem modProduct_lot (s : State) (i : ProductIx) (f : Product → Product) (y : LotSlot) : (modProduct i f s).lot y = s.lot y := rfl
@[simp] theorem modProduct_tally (s : State) (i : ProductIx) (f : Product → Product) (y : LotSlot) : (modProduct i f s).tally y = s.tally y := rfl
@[simp] theorem modProduct_ship (s : State) (i : ProductIx) (f : Product → Product) (j : ShipSlot) : (modProduct i f s).ship j = s.ship j := rfl
@[simp] theorem modProduct_checkMark (s : State) (i : ProductIx) (f : Product → Product) (y : LotSlot) : (modProduct i f s).checkMark y = s.checkMark y := rfl

@[simp] theorem modTally_pending (s : State) (x : LotSlot) (f : LotStepRec → LotStepRec) : (modTally x f s).pending = s.pending := rfl
@[simp] theorem modTally_products (s : State) (x : LotSlot) (f : LotStepRec → LotStepRec) : (modTally x f s).products = s.products := rfl
@[simp] theorem modTally_catalog (s : State) (x : LotSlot) (f : LotStepRec → LotStepRec) : (modTally x f s).catalog = s.catalog := rfl
@[simp] theorem modTally_lots (s : State) (x : LotSlot) (f : LotStepRec → LotStepRec) : (modTally x f s).lots = s.lots := rfl
@[simp] theorem modTally_regCounter (s : State) (x : LotSlot) (f : LotStepRec → LotStepRec) : (modTally x f s).regCounter = s.regCounter := rfl
@[simp] theorem modTally_waitList (s : State) (x : LotSlot) (f : LotStepRec → LotStepRec) : (modTally x f s).waitList = s.waitList := rfl
@[simp] theorem modTally_waiting (s : State) (x : LotSlot) (f : LotStepRec → LotStepRec) : (modTally x f s).waiting = s.waiting := rfl
@[simp] theorem modTally_pointer (s : State) (x : LotSlot) (f : LotStepRec → LotStepRec) : (modTally x f s).pointer = s.pointer := rfl
@[simp] theorem modTally_agingLimit (s : State) (x : LotSlot) (f : LotStepRec → LotStepRec) : (modTally x f s).agingLimit = s.agingLimit := rfl
@[simp] theorem modTally_cells (s : State) (x : LotSlot) (f : LotStepRec → LotStepRec) : (modTally x f s).cells = s.cells := rfl
@[simp] theorem modTally_loads (s : State) (x : LotSlot) (f : LotStepRec → LotStepRec) : (modTally x f s).loads = s.loads := rfl
@[simp] theorem modTally_bufferWaiting (s : State) (x : LotSlot) (f : LotStepRec → LotStepRec) : (modTally x f s).bufferWaiting = s.bufferWaiting := rfl
@[simp] theorem modTally_grantPointer (s : State) (x : LotSlot) (f : LotStepRec → LotStepRec) : (modTally x f s).grantPointer = s.grantPointer := rfl
@[simp] theorem modTally_buffers (s : State) (x : LotSlot) (f : LotStepRec → LotStepRec) : (modTally x f s).buffers = s.buffers := rfl
@[simp] theorem modTally_ports (s : State) (x : LotSlot) (f : LotStepRec → LotStepRec) : (modTally x f s).ports = s.ports := rfl
@[simp] theorem modTally_runGroups (s : State) (x : LotSlot) (f : LotStepRec → LotStepRec) : (modTally x f s).runGroups = s.runGroups := rfl
@[simp] theorem modTally_baselines (s : State) (x : LotSlot) (f : LotStepRec → LotStepRec) : (modTally x f s).baselines = s.baselines := rfl
@[simp] theorem modTally_summaries (s : State) (x : LotSlot) (f : LotStepRec → LotStepRec) : (modTally x f s).summaries = s.summaries := rfl
@[simp] theorem modTally_checkMarks (s : State) (x : LotSlot) (f : LotStepRec → LotStepRec) : (modTally x f s).checkMarks = s.checkMarks := rfl
@[simp] theorem modTally_ships (s : State) (x : LotSlot) (f : LotStepRec → LotStepRec) : (modTally x f s).ships = s.ships := rfl
@[simp] theorem modTally_tickets (s : State) (x : LotSlot) (f : LotStepRec → LotStepRec) : (modTally x f s).tickets = s.tickets := rfl
@[simp] theorem modTally_ticketCounter (s : State) (x : LotSlot) (f : LotStepRec → LotStepRec) : (modTally x f s).ticketCounter = s.ticketCounter := rfl
@[simp] theorem modTally_host (s : State) (x : LotSlot) (f : LotStepRec → LotStepRec) : (modTally x f s).host = s.host := rfl
@[simp] theorem modTally_floorTime (s : State) (x : LotSlot) (f : LotStepRec → LotStepRec) : (modTally x f s).floorTime = s.floorTime := rfl
@[simp] theorem modTally_secondPhase (s : State) (x : LotSlot) (f : LotStepRec → LotStepRec) : (modTally x f s).secondPhase = s.secondPhase := rfl
@[simp] theorem modTally_freeTick (s : State) (x : LotSlot) (f : LotStepRec → LotStepRec) : (modTally x f s).freeTick = s.freeTick := rfl
@[simp] theorem modTally_cell (s : State) (x : LotSlot) (f : LotStepRec → LotStepRec) (d : CellId) : (modTally x f s).cell d = s.cell d := rfl
@[simp] theorem modTally_port (s : State) (x : LotSlot) (f : LotStepRec → LotStepRec) (d : CellId) : (modTally x f s).port d = s.port d := rfl
@[simp] theorem modTally_load (s : State) (x : LotSlot) (f : LotStepRec → LotStepRec) (d : CellId) : (modTally x f s).load d = s.load d := rfl
@[simp] theorem modTally_lot (s : State) (x : LotSlot) (f : LotStepRec → LotStepRec) (y : LotSlot) : (modTally x f s).lot y = s.lot y := rfl
@[simp] theorem modTally_product (s : State) (x : LotSlot) (f : LotStepRec → LotStepRec) (j : ProductIx) : (modTally x f s).product j = s.product j := rfl
@[simp] theorem modTally_ship (s : State) (x : LotSlot) (f : LotStepRec → LotStepRec) (j : ShipSlot) : (modTally x f s).ship j = s.ship j := rfl
@[simp] theorem modTally_checkMark (s : State) (x : LotSlot) (f : LotStepRec → LotStepRec) (y : LotSlot) : (modTally x f s).checkMark y = s.checkMark y := rfl

@[simp] theorem setShip_pending (s : State) (k : ShipSlot) (h : Option Shipment) : (s.setShip k h).pending = s.pending := rfl
@[simp] theorem setShip_products (s : State) (k : ShipSlot) (h : Option Shipment) : (s.setShip k h).products = s.products := rfl
@[simp] theorem setShip_catalog (s : State) (k : ShipSlot) (h : Option Shipment) : (s.setShip k h).catalog = s.catalog := rfl
@[simp] theorem setShip_lots (s : State) (k : ShipSlot) (h : Option Shipment) : (s.setShip k h).lots = s.lots := rfl
@[simp] theorem setShip_regCounter (s : State) (k : ShipSlot) (h : Option Shipment) : (s.setShip k h).regCounter = s.regCounter := rfl
@[simp] theorem setShip_waitList (s : State) (k : ShipSlot) (h : Option Shipment) : (s.setShip k h).waitList = s.waitList := rfl
@[simp] theorem setShip_waiting (s : State) (k : ShipSlot) (h : Option Shipment) : (s.setShip k h).waiting = s.waiting := rfl
@[simp] theorem setShip_pointer (s : State) (k : ShipSlot) (h : Option Shipment) : (s.setShip k h).pointer = s.pointer := rfl
@[simp] theorem setShip_agingLimit (s : State) (k : ShipSlot) (h : Option Shipment) : (s.setShip k h).agingLimit = s.agingLimit := rfl
@[simp] theorem setShip_cells (s : State) (k : ShipSlot) (h : Option Shipment) : (s.setShip k h).cells = s.cells := rfl
@[simp] theorem setShip_loads (s : State) (k : ShipSlot) (h : Option Shipment) : (s.setShip k h).loads = s.loads := rfl
@[simp] theorem setShip_bufferWaiting (s : State) (k : ShipSlot) (h : Option Shipment) : (s.setShip k h).bufferWaiting = s.bufferWaiting := rfl
@[simp] theorem setShip_grantPointer (s : State) (k : ShipSlot) (h : Option Shipment) : (s.setShip k h).grantPointer = s.grantPointer := rfl
@[simp] theorem setShip_buffers (s : State) (k : ShipSlot) (h : Option Shipment) : (s.setShip k h).buffers = s.buffers := rfl
@[simp] theorem setShip_ports (s : State) (k : ShipSlot) (h : Option Shipment) : (s.setShip k h).ports = s.ports := rfl
@[simp] theorem setShip_tallies (s : State) (k : ShipSlot) (h : Option Shipment) : (s.setShip k h).tallies = s.tallies := rfl
@[simp] theorem setShip_runGroups (s : State) (k : ShipSlot) (h : Option Shipment) : (s.setShip k h).runGroups = s.runGroups := rfl
@[simp] theorem setShip_baselines (s : State) (k : ShipSlot) (h : Option Shipment) : (s.setShip k h).baselines = s.baselines := rfl
@[simp] theorem setShip_summaries (s : State) (k : ShipSlot) (h : Option Shipment) : (s.setShip k h).summaries = s.summaries := rfl
@[simp] theorem setShip_checkMarks (s : State) (k : ShipSlot) (h : Option Shipment) : (s.setShip k h).checkMarks = s.checkMarks := rfl
@[simp] theorem setShip_tickets (s : State) (k : ShipSlot) (h : Option Shipment) : (s.setShip k h).tickets = s.tickets := rfl
@[simp] theorem setShip_ticketCounter (s : State) (k : ShipSlot) (h : Option Shipment) : (s.setShip k h).ticketCounter = s.ticketCounter := rfl
@[simp] theorem setShip_host (s : State) (k : ShipSlot) (h : Option Shipment) : (s.setShip k h).host = s.host := rfl
@[simp] theorem setShip_floorTime (s : State) (k : ShipSlot) (h : Option Shipment) : (s.setShip k h).floorTime = s.floorTime := rfl
@[simp] theorem setShip_secondPhase (s : State) (k : ShipSlot) (h : Option Shipment) : (s.setShip k h).secondPhase = s.secondPhase := rfl
@[simp] theorem setShip_freeTick (s : State) (k : ShipSlot) (h : Option Shipment) : (s.setShip k h).freeTick = s.freeTick := rfl
@[simp] theorem setShip_cell (s : State) (k : ShipSlot) (h : Option Shipment) (d : CellId) : (s.setShip k h).cell d = s.cell d := rfl
@[simp] theorem setShip_port (s : State) (k : ShipSlot) (h : Option Shipment) (d : CellId) : (s.setShip k h).port d = s.port d := rfl
@[simp] theorem setShip_load (s : State) (k : ShipSlot) (h : Option Shipment) (d : CellId) : (s.setShip k h).load d = s.load d := rfl
@[simp] theorem setShip_lot (s : State) (k : ShipSlot) (h : Option Shipment) (y : LotSlot) : (s.setShip k h).lot y = s.lot y := rfl
@[simp] theorem setShip_product (s : State) (k : ShipSlot) (h : Option Shipment) (j : ProductIx) : (s.setShip k h).product j = s.product j := rfl
@[simp] theorem setShip_tally (s : State) (k : ShipSlot) (h : Option Shipment) (y : LotSlot) : (s.setShip k h).tally y = s.tally y := rfl
@[simp] theorem setShip_checkMark (s : State) (k : ShipSlot) (h : Option Shipment) (y : LotSlot) : (s.setShip k h).checkMark y = s.checkMark y := rfl

@[simp] theorem modShip_pending (s : State) (k : ShipSlot) (f : Shipment → Shipment) : (modShip k f s).pending = s.pending := rfl
@[simp] theorem modShip_products (s : State) (k : ShipSlot) (f : Shipment → Shipment) : (modShip k f s).products = s.products := rfl
@[simp] theorem modShip_catalog (s : State) (k : ShipSlot) (f : Shipment → Shipment) : (modShip k f s).catalog = s.catalog := rfl
@[simp] theorem modShip_lots (s : State) (k : ShipSlot) (f : Shipment → Shipment) : (modShip k f s).lots = s.lots := rfl
@[simp] theorem modShip_regCounter (s : State) (k : ShipSlot) (f : Shipment → Shipment) : (modShip k f s).regCounter = s.regCounter := rfl
@[simp] theorem modShip_waitList (s : State) (k : ShipSlot) (f : Shipment → Shipment) : (modShip k f s).waitList = s.waitList := rfl
@[simp] theorem modShip_waiting (s : State) (k : ShipSlot) (f : Shipment → Shipment) : (modShip k f s).waiting = s.waiting := rfl
@[simp] theorem modShip_pointer (s : State) (k : ShipSlot) (f : Shipment → Shipment) : (modShip k f s).pointer = s.pointer := rfl
@[simp] theorem modShip_agingLimit (s : State) (k : ShipSlot) (f : Shipment → Shipment) : (modShip k f s).agingLimit = s.agingLimit := rfl
@[simp] theorem modShip_cells (s : State) (k : ShipSlot) (f : Shipment → Shipment) : (modShip k f s).cells = s.cells := rfl
@[simp] theorem modShip_loads (s : State) (k : ShipSlot) (f : Shipment → Shipment) : (modShip k f s).loads = s.loads := rfl
@[simp] theorem modShip_bufferWaiting (s : State) (k : ShipSlot) (f : Shipment → Shipment) : (modShip k f s).bufferWaiting = s.bufferWaiting := rfl
@[simp] theorem modShip_grantPointer (s : State) (k : ShipSlot) (f : Shipment → Shipment) : (modShip k f s).grantPointer = s.grantPointer := rfl
@[simp] theorem modShip_buffers (s : State) (k : ShipSlot) (f : Shipment → Shipment) : (modShip k f s).buffers = s.buffers := rfl
@[simp] theorem modShip_ports (s : State) (k : ShipSlot) (f : Shipment → Shipment) : (modShip k f s).ports = s.ports := rfl
@[simp] theorem modShip_tallies (s : State) (k : ShipSlot) (f : Shipment → Shipment) : (modShip k f s).tallies = s.tallies := rfl
@[simp] theorem modShip_runGroups (s : State) (k : ShipSlot) (f : Shipment → Shipment) : (modShip k f s).runGroups = s.runGroups := rfl
@[simp] theorem modShip_baselines (s : State) (k : ShipSlot) (f : Shipment → Shipment) : (modShip k f s).baselines = s.baselines := rfl
@[simp] theorem modShip_summaries (s : State) (k : ShipSlot) (f : Shipment → Shipment) : (modShip k f s).summaries = s.summaries := rfl
@[simp] theorem modShip_checkMarks (s : State) (k : ShipSlot) (f : Shipment → Shipment) : (modShip k f s).checkMarks = s.checkMarks := rfl
@[simp] theorem modShip_tickets (s : State) (k : ShipSlot) (f : Shipment → Shipment) : (modShip k f s).tickets = s.tickets := rfl
@[simp] theorem modShip_ticketCounter (s : State) (k : ShipSlot) (f : Shipment → Shipment) : (modShip k f s).ticketCounter = s.ticketCounter := rfl
@[simp] theorem modShip_host (s : State) (k : ShipSlot) (f : Shipment → Shipment) : (modShip k f s).host = s.host := rfl
@[simp] theorem modShip_floorTime (s : State) (k : ShipSlot) (f : Shipment → Shipment) : (modShip k f s).floorTime = s.floorTime := rfl
@[simp] theorem modShip_secondPhase (s : State) (k : ShipSlot) (f : Shipment → Shipment) : (modShip k f s).secondPhase = s.secondPhase := rfl
@[simp] theorem modShip_freeTick (s : State) (k : ShipSlot) (f : Shipment → Shipment) : (modShip k f s).freeTick = s.freeTick := rfl
@[simp] theorem modShip_cell (s : State) (k : ShipSlot) (f : Shipment → Shipment) (d : CellId) : (modShip k f s).cell d = s.cell d := rfl
@[simp] theorem modShip_port (s : State) (k : ShipSlot) (f : Shipment → Shipment) (d : CellId) : (modShip k f s).port d = s.port d := rfl
@[simp] theorem modShip_load (s : State) (k : ShipSlot) (f : Shipment → Shipment) (d : CellId) : (modShip k f s).load d = s.load d := rfl
@[simp] theorem modShip_lot (s : State) (k : ShipSlot) (f : Shipment → Shipment) (y : LotSlot) : (modShip k f s).lot y = s.lot y := rfl
@[simp] theorem modShip_product (s : State) (k : ShipSlot) (f : Shipment → Shipment) (j : ProductIx) : (modShip k f s).product j = s.product j := rfl
@[simp] theorem modShip_tally (s : State) (k : ShipSlot) (f : Shipment → Shipment) (y : LotSlot) : (modShip k f s).tally y = s.tally y := rfl
@[simp] theorem modShip_checkMark (s : State) (k : ShipSlot) (f : Shipment → Shipment) (y : LotSlot) : (modShip k f s).checkMark y = s.checkMark y := rfl

@[simp] theorem setCheckMark_pending (s : State) (x : LotSlot) (b : Bool) : (setCheckMark x b s).pending = s.pending := rfl
@[simp] theorem setCheckMark_products (s : State) (x : LotSlot) (b : Bool) : (setCheckMark x b s).products = s.products := rfl
@[simp] theorem setCheckMark_catalog (s : State) (x : LotSlot) (b : Bool) : (setCheckMark x b s).catalog = s.catalog := rfl
@[simp] theorem setCheckMark_lots (s : State) (x : LotSlot) (b : Bool) : (setCheckMark x b s).lots = s.lots := rfl
@[simp] theorem setCheckMark_regCounter (s : State) (x : LotSlot) (b : Bool) : (setCheckMark x b s).regCounter = s.regCounter := rfl
@[simp] theorem setCheckMark_waitList (s : State) (x : LotSlot) (b : Bool) : (setCheckMark x b s).waitList = s.waitList := rfl
@[simp] theorem setCheckMark_waiting (s : State) (x : LotSlot) (b : Bool) : (setCheckMark x b s).waiting = s.waiting := rfl
@[simp] theorem setCheckMark_pointer (s : State) (x : LotSlot) (b : Bool) : (setCheckMark x b s).pointer = s.pointer := rfl
@[simp] theorem setCheckMark_agingLimit (s : State) (x : LotSlot) (b : Bool) : (setCheckMark x b s).agingLimit = s.agingLimit := rfl
@[simp] theorem setCheckMark_cells (s : State) (x : LotSlot) (b : Bool) : (setCheckMark x b s).cells = s.cells := rfl
@[simp] theorem setCheckMark_loads (s : State) (x : LotSlot) (b : Bool) : (setCheckMark x b s).loads = s.loads := rfl
@[simp] theorem setCheckMark_bufferWaiting (s : State) (x : LotSlot) (b : Bool) : (setCheckMark x b s).bufferWaiting = s.bufferWaiting := rfl
@[simp] theorem setCheckMark_grantPointer (s : State) (x : LotSlot) (b : Bool) : (setCheckMark x b s).grantPointer = s.grantPointer := rfl
@[simp] theorem setCheckMark_buffers (s : State) (x : LotSlot) (b : Bool) : (setCheckMark x b s).buffers = s.buffers := rfl
@[simp] theorem setCheckMark_ports (s : State) (x : LotSlot) (b : Bool) : (setCheckMark x b s).ports = s.ports := rfl
@[simp] theorem setCheckMark_tallies (s : State) (x : LotSlot) (b : Bool) : (setCheckMark x b s).tallies = s.tallies := rfl
@[simp] theorem setCheckMark_runGroups (s : State) (x : LotSlot) (b : Bool) : (setCheckMark x b s).runGroups = s.runGroups := rfl
@[simp] theorem setCheckMark_baselines (s : State) (x : LotSlot) (b : Bool) : (setCheckMark x b s).baselines = s.baselines := rfl
@[simp] theorem setCheckMark_summaries (s : State) (x : LotSlot) (b : Bool) : (setCheckMark x b s).summaries = s.summaries := rfl
@[simp] theorem setCheckMark_ships (s : State) (x : LotSlot) (b : Bool) : (setCheckMark x b s).ships = s.ships := rfl
@[simp] theorem setCheckMark_tickets (s : State) (x : LotSlot) (b : Bool) : (setCheckMark x b s).tickets = s.tickets := rfl
@[simp] theorem setCheckMark_ticketCounter (s : State) (x : LotSlot) (b : Bool) : (setCheckMark x b s).ticketCounter = s.ticketCounter := rfl
@[simp] theorem setCheckMark_host (s : State) (x : LotSlot) (b : Bool) : (setCheckMark x b s).host = s.host := rfl
@[simp] theorem setCheckMark_floorTime (s : State) (x : LotSlot) (b : Bool) : (setCheckMark x b s).floorTime = s.floorTime := rfl
@[simp] theorem setCheckMark_secondPhase (s : State) (x : LotSlot) (b : Bool) : (setCheckMark x b s).secondPhase = s.secondPhase := rfl
@[simp] theorem setCheckMark_freeTick (s : State) (x : LotSlot) (b : Bool) : (setCheckMark x b s).freeTick = s.freeTick := rfl
@[simp] theorem setCheckMark_cell (s : State) (x : LotSlot) (b : Bool) (d : CellId) : (setCheckMark x b s).cell d = s.cell d := rfl
@[simp] theorem setCheckMark_port (s : State) (x : LotSlot) (b : Bool) (d : CellId) : (setCheckMark x b s).port d = s.port d := rfl
@[simp] theorem setCheckMark_load (s : State) (x : LotSlot) (b : Bool) (d : CellId) : (setCheckMark x b s).load d = s.load d := rfl
@[simp] theorem setCheckMark_lot (s : State) (x : LotSlot) (b : Bool) (y : LotSlot) : (setCheckMark x b s).lot y = s.lot y := rfl
@[simp] theorem setCheckMark_product (s : State) (x : LotSlot) (b : Bool) (j : ProductIx) : (setCheckMark x b s).product j = s.product j := rfl
@[simp] theorem setCheckMark_tally (s : State) (x : LotSlot) (b : Bool) (y : LotSlot) : (setCheckMark x b s).tally y = s.tally y := rfl
@[simp] theorem setCheckMark_ship (s : State) (x : LotSlot) (b : Bool) (j : ShipSlot) : (setCheckMark x b s).ship j = s.ship j := rfl

@[simp] theorem setSummary_pending (s : State) (x : LotSlot) (m : Summary) : (setSummary x m s).pending = s.pending := by unfold setSummary; split <;> rfl
@[simp] theorem setSummary_products (s : State) (x : LotSlot) (m : Summary) : (setSummary x m s).products = s.products := by unfold setSummary; split <;> rfl
@[simp] theorem setSummary_catalog (s : State) (x : LotSlot) (m : Summary) : (setSummary x m s).catalog = s.catalog := by unfold setSummary; split <;> rfl
@[simp] theorem setSummary_lots (s : State) (x : LotSlot) (m : Summary) : (setSummary x m s).lots = s.lots := by unfold setSummary; split <;> rfl
@[simp] theorem setSummary_regCounter (s : State) (x : LotSlot) (m : Summary) : (setSummary x m s).regCounter = s.regCounter := by unfold setSummary; split <;> rfl
@[simp] theorem setSummary_waitList (s : State) (x : LotSlot) (m : Summary) : (setSummary x m s).waitList = s.waitList := by unfold setSummary; split <;> rfl
@[simp] theorem setSummary_waiting (s : State) (x : LotSlot) (m : Summary) : (setSummary x m s).waiting = s.waiting := by unfold setSummary; split <;> rfl
@[simp] theorem setSummary_pointer (s : State) (x : LotSlot) (m : Summary) : (setSummary x m s).pointer = s.pointer := by unfold setSummary; split <;> rfl
@[simp] theorem setSummary_agingLimit (s : State) (x : LotSlot) (m : Summary) : (setSummary x m s).agingLimit = s.agingLimit := by unfold setSummary; split <;> rfl
@[simp] theorem setSummary_cells (s : State) (x : LotSlot) (m : Summary) : (setSummary x m s).cells = s.cells := by unfold setSummary; split <;> rfl
@[simp] theorem setSummary_loads (s : State) (x : LotSlot) (m : Summary) : (setSummary x m s).loads = s.loads := by unfold setSummary; split <;> rfl
@[simp] theorem setSummary_bufferWaiting (s : State) (x : LotSlot) (m : Summary) : (setSummary x m s).bufferWaiting = s.bufferWaiting := by unfold setSummary; split <;> rfl
@[simp] theorem setSummary_grantPointer (s : State) (x : LotSlot) (m : Summary) : (setSummary x m s).grantPointer = s.grantPointer := by unfold setSummary; split <;> rfl
@[simp] theorem setSummary_buffers (s : State) (x : LotSlot) (m : Summary) : (setSummary x m s).buffers = s.buffers := by unfold setSummary; split <;> rfl
@[simp] theorem setSummary_ports (s : State) (x : LotSlot) (m : Summary) : (setSummary x m s).ports = s.ports := by unfold setSummary; split <;> rfl
@[simp] theorem setSummary_tallies (s : State) (x : LotSlot) (m : Summary) : (setSummary x m s).tallies = s.tallies := by unfold setSummary; split <;> rfl
@[simp] theorem setSummary_runGroups (s : State) (x : LotSlot) (m : Summary) : (setSummary x m s).runGroups = s.runGroups := by unfold setSummary; split <;> rfl
@[simp] theorem setSummary_baselines (s : State) (x : LotSlot) (m : Summary) : (setSummary x m s).baselines = s.baselines := by unfold setSummary; split <;> rfl
@[simp] theorem setSummary_checkMarks (s : State) (x : LotSlot) (m : Summary) : (setSummary x m s).checkMarks = s.checkMarks := by unfold setSummary; split <;> rfl
@[simp] theorem setSummary_ships (s : State) (x : LotSlot) (m : Summary) : (setSummary x m s).ships = s.ships := by unfold setSummary; split <;> rfl
@[simp] theorem setSummary_tickets (s : State) (x : LotSlot) (m : Summary) : (setSummary x m s).tickets = s.tickets := by unfold setSummary; split <;> rfl
@[simp] theorem setSummary_ticketCounter (s : State) (x : LotSlot) (m : Summary) : (setSummary x m s).ticketCounter = s.ticketCounter := by unfold setSummary; split <;> rfl
@[simp] theorem setSummary_host (s : State) (x : LotSlot) (m : Summary) : (setSummary x m s).host = s.host := by unfold setSummary; split <;> rfl
@[simp] theorem setSummary_floorTime (s : State) (x : LotSlot) (m : Summary) : (setSummary x m s).floorTime = s.floorTime := by unfold setSummary; split <;> rfl
@[simp] theorem setSummary_secondPhase (s : State) (x : LotSlot) (m : Summary) : (setSummary x m s).secondPhase = s.secondPhase := by unfold setSummary; split <;> rfl
@[simp] theorem setSummary_freeTick (s : State) (x : LotSlot) (m : Summary) : (setSummary x m s).freeTick = s.freeTick := by unfold setSummary; split <;> rfl
@[simp] theorem setSummary_cell (s : State) (x : LotSlot) (m : Summary) (d : CellId) : (setSummary x m s).cell d = s.cell d := by unfold setSummary; split <;> rfl
@[simp] theorem setSummary_port (s : State) (x : LotSlot) (m : Summary) (d : CellId) : (setSummary x m s).port d = s.port d := by unfold setSummary; split <;> rfl
@[simp] theorem setSummary_load (s : State) (x : LotSlot) (m : Summary) (d : CellId) : (setSummary x m s).load d = s.load d := by unfold setSummary; split <;> rfl
@[simp] theorem setSummary_lot (s : State) (x : LotSlot) (m : Summary) (y : LotSlot) : (setSummary x m s).lot y = s.lot y := by unfold setSummary; split <;> rfl
@[simp] theorem setSummary_product (s : State) (x : LotSlot) (m : Summary) (j : ProductIx) : (setSummary x m s).product j = s.product j := by unfold setSummary; split <;> rfl
@[simp] theorem setSummary_tally (s : State) (x : LotSlot) (m : Summary) (y : LotSlot) : (setSummary x m s).tally y = s.tally y := by unfold setSummary; split <;> rfl
@[simp] theorem setSummary_ship (s : State) (x : LotSlot) (m : Summary) (j : ShipSlot) : (setSummary x m s).ship j = s.ship j := by unfold setSummary; split <;> rfl
@[simp] theorem setSummary_checkMark (s : State) (x : LotSlot) (m : Summary) (y : LotSlot) : (setSummary x m s).checkMark y = s.checkMark y := by unfold setSummary; split <;> rfl

@[simp] theorem setRunGroups_pending (s : State) (c : CellId) (n : Nat) : (setRunGroups c n s).pending = s.pending := rfl
@[simp] theorem setRunGroups_products (s : State) (c : CellId) (n : Nat) : (setRunGroups c n s).products = s.products := rfl
@[simp] theorem setRunGroups_catalog (s : State) (c : CellId) (n : Nat) : (setRunGroups c n s).catalog = s.catalog := rfl
@[simp] theorem setRunGroups_lots (s : State) (c : CellId) (n : Nat) : (setRunGroups c n s).lots = s.lots := rfl
@[simp] theorem setRunGroups_regCounter (s : State) (c : CellId) (n : Nat) : (setRunGroups c n s).regCounter = s.regCounter := rfl
@[simp] theorem setRunGroups_waitList (s : State) (c : CellId) (n : Nat) : (setRunGroups c n s).waitList = s.waitList := rfl
@[simp] theorem setRunGroups_waiting (s : State) (c : CellId) (n : Nat) : (setRunGroups c n s).waiting = s.waiting := rfl
@[simp] theorem setRunGroups_pointer (s : State) (c : CellId) (n : Nat) : (setRunGroups c n s).pointer = s.pointer := rfl
@[simp] theorem setRunGroups_agingLimit (s : State) (c : CellId) (n : Nat) : (setRunGroups c n s).agingLimit = s.agingLimit := rfl
@[simp] theorem setRunGroups_cells (s : State) (c : CellId) (n : Nat) : (setRunGroups c n s).cells = s.cells := rfl
@[simp] theorem setRunGroups_loads (s : State) (c : CellId) (n : Nat) : (setRunGroups c n s).loads = s.loads := rfl
@[simp] theorem setRunGroups_bufferWaiting (s : State) (c : CellId) (n : Nat) : (setRunGroups c n s).bufferWaiting = s.bufferWaiting := rfl
@[simp] theorem setRunGroups_grantPointer (s : State) (c : CellId) (n : Nat) : (setRunGroups c n s).grantPointer = s.grantPointer := rfl
@[simp] theorem setRunGroups_buffers (s : State) (c : CellId) (n : Nat) : (setRunGroups c n s).buffers = s.buffers := rfl
@[simp] theorem setRunGroups_ports (s : State) (c : CellId) (n : Nat) : (setRunGroups c n s).ports = s.ports := rfl
@[simp] theorem setRunGroups_tallies (s : State) (c : CellId) (n : Nat) : (setRunGroups c n s).tallies = s.tallies := rfl
@[simp] theorem setRunGroups_baselines (s : State) (c : CellId) (n : Nat) : (setRunGroups c n s).baselines = s.baselines := rfl
@[simp] theorem setRunGroups_summaries (s : State) (c : CellId) (n : Nat) : (setRunGroups c n s).summaries = s.summaries := rfl
@[simp] theorem setRunGroups_checkMarks (s : State) (c : CellId) (n : Nat) : (setRunGroups c n s).checkMarks = s.checkMarks := rfl
@[simp] theorem setRunGroups_ships (s : State) (c : CellId) (n : Nat) : (setRunGroups c n s).ships = s.ships := rfl
@[simp] theorem setRunGroups_tickets (s : State) (c : CellId) (n : Nat) : (setRunGroups c n s).tickets = s.tickets := rfl
@[simp] theorem setRunGroups_ticketCounter (s : State) (c : CellId) (n : Nat) : (setRunGroups c n s).ticketCounter = s.ticketCounter := rfl
@[simp] theorem setRunGroups_host (s : State) (c : CellId) (n : Nat) : (setRunGroups c n s).host = s.host := rfl
@[simp] theorem setRunGroups_floorTime (s : State) (c : CellId) (n : Nat) : (setRunGroups c n s).floorTime = s.floorTime := rfl
@[simp] theorem setRunGroups_secondPhase (s : State) (c : CellId) (n : Nat) : (setRunGroups c n s).secondPhase = s.secondPhase := rfl
@[simp] theorem setRunGroups_freeTick (s : State) (c : CellId) (n : Nat) : (setRunGroups c n s).freeTick = s.freeTick := rfl
@[simp] theorem setRunGroups_cell (s : State) (c : CellId) (n : Nat) (d : CellId) : (setRunGroups c n s).cell d = s.cell d := rfl
@[simp] theorem setRunGroups_port (s : State) (c : CellId) (n : Nat) (d : CellId) : (setRunGroups c n s).port d = s.port d := rfl
@[simp] theorem setRunGroups_load (s : State) (c : CellId) (n : Nat) (d : CellId) : (setRunGroups c n s).load d = s.load d := rfl
@[simp] theorem setRunGroups_lot (s : State) (c : CellId) (n : Nat) (y : LotSlot) : (setRunGroups c n s).lot y = s.lot y := rfl
@[simp] theorem setRunGroups_product (s : State) (c : CellId) (n : Nat) (j : ProductIx) : (setRunGroups c n s).product j = s.product j := rfl
@[simp] theorem setRunGroups_tally (s : State) (c : CellId) (n : Nat) (y : LotSlot) : (setRunGroups c n s).tally y = s.tally y := rfl
@[simp] theorem setRunGroups_ship (s : State) (c : CellId) (n : Nat) (j : ShipSlot) : (setRunGroups c n s).ship j = s.ship j := rfl
@[simp] theorem setRunGroups_checkMark (s : State) (c : CellId) (n : Nat) (y : LotSlot) : (setRunGroups c n s).checkMark y = s.checkMark y := rfl

@[simp] theorem setWaiting_pending (s : State) (c : CellId) (b : Bool) : (setWaiting c b s).pending = s.pending := rfl
@[simp] theorem setWaiting_products (s : State) (c : CellId) (b : Bool) : (setWaiting c b s).products = s.products := rfl
@[simp] theorem setWaiting_catalog (s : State) (c : CellId) (b : Bool) : (setWaiting c b s).catalog = s.catalog := rfl
@[simp] theorem setWaiting_lots (s : State) (c : CellId) (b : Bool) : (setWaiting c b s).lots = s.lots := rfl
@[simp] theorem setWaiting_regCounter (s : State) (c : CellId) (b : Bool) : (setWaiting c b s).regCounter = s.regCounter := rfl
@[simp] theorem setWaiting_waitList (s : State) (c : CellId) (b : Bool) : (setWaiting c b s).waitList = s.waitList := rfl
@[simp] theorem setWaiting_pointer (s : State) (c : CellId) (b : Bool) : (setWaiting c b s).pointer = s.pointer := rfl
@[simp] theorem setWaiting_agingLimit (s : State) (c : CellId) (b : Bool) : (setWaiting c b s).agingLimit = s.agingLimit := rfl
@[simp] theorem setWaiting_cells (s : State) (c : CellId) (b : Bool) : (setWaiting c b s).cells = s.cells := rfl
@[simp] theorem setWaiting_loads (s : State) (c : CellId) (b : Bool) : (setWaiting c b s).loads = s.loads := rfl
@[simp] theorem setWaiting_bufferWaiting (s : State) (c : CellId) (b : Bool) : (setWaiting c b s).bufferWaiting = s.bufferWaiting := rfl
@[simp] theorem setWaiting_grantPointer (s : State) (c : CellId) (b : Bool) : (setWaiting c b s).grantPointer = s.grantPointer := rfl
@[simp] theorem setWaiting_buffers (s : State) (c : CellId) (b : Bool) : (setWaiting c b s).buffers = s.buffers := rfl
@[simp] theorem setWaiting_ports (s : State) (c : CellId) (b : Bool) : (setWaiting c b s).ports = s.ports := rfl
@[simp] theorem setWaiting_tallies (s : State) (c : CellId) (b : Bool) : (setWaiting c b s).tallies = s.tallies := rfl
@[simp] theorem setWaiting_runGroups (s : State) (c : CellId) (b : Bool) : (setWaiting c b s).runGroups = s.runGroups := rfl
@[simp] theorem setWaiting_baselines (s : State) (c : CellId) (b : Bool) : (setWaiting c b s).baselines = s.baselines := rfl
@[simp] theorem setWaiting_summaries (s : State) (c : CellId) (b : Bool) : (setWaiting c b s).summaries = s.summaries := rfl
@[simp] theorem setWaiting_checkMarks (s : State) (c : CellId) (b : Bool) : (setWaiting c b s).checkMarks = s.checkMarks := rfl
@[simp] theorem setWaiting_ships (s : State) (c : CellId) (b : Bool) : (setWaiting c b s).ships = s.ships := rfl
@[simp] theorem setWaiting_tickets (s : State) (c : CellId) (b : Bool) : (setWaiting c b s).tickets = s.tickets := rfl
@[simp] theorem setWaiting_ticketCounter (s : State) (c : CellId) (b : Bool) : (setWaiting c b s).ticketCounter = s.ticketCounter := rfl
@[simp] theorem setWaiting_host (s : State) (c : CellId) (b : Bool) : (setWaiting c b s).host = s.host := rfl
@[simp] theorem setWaiting_floorTime (s : State) (c : CellId) (b : Bool) : (setWaiting c b s).floorTime = s.floorTime := rfl
@[simp] theorem setWaiting_secondPhase (s : State) (c : CellId) (b : Bool) : (setWaiting c b s).secondPhase = s.secondPhase := rfl
@[simp] theorem setWaiting_freeTick (s : State) (c : CellId) (b : Bool) : (setWaiting c b s).freeTick = s.freeTick := rfl
@[simp] theorem setWaiting_cell (s : State) (c : CellId) (b : Bool) (d : CellId) : (setWaiting c b s).cell d = s.cell d := rfl
@[simp] theorem setWaiting_port (s : State) (c : CellId) (b : Bool) (d : CellId) : (setWaiting c b s).port d = s.port d := rfl
@[simp] theorem setWaiting_load (s : State) (c : CellId) (b : Bool) (d : CellId) : (setWaiting c b s).load d = s.load d := rfl
@[simp] theorem setWaiting_lot (s : State) (c : CellId) (b : Bool) (y : LotSlot) : (setWaiting c b s).lot y = s.lot y := rfl
@[simp] theorem setWaiting_product (s : State) (c : CellId) (b : Bool) (j : ProductIx) : (setWaiting c b s).product j = s.product j := rfl
@[simp] theorem setWaiting_tally (s : State) (c : CellId) (b : Bool) (y : LotSlot) : (setWaiting c b s).tally y = s.tally y := rfl
@[simp] theorem setWaiting_ship (s : State) (c : CellId) (b : Bool) (j : ShipSlot) : (setWaiting c b s).ship j = s.ship j := rfl
@[simp] theorem setWaiting_checkMark (s : State) (c : CellId) (b : Bool) (y : LotSlot) : (setWaiting c b s).checkMark y = s.checkMark y := rfl

@[simp] theorem setBufferWaiting_pending (s : State) (c : CellId) (b : Bool) : (setBufferWaiting c b s).pending = s.pending := rfl
@[simp] theorem setBufferWaiting_products (s : State) (c : CellId) (b : Bool) : (setBufferWaiting c b s).products = s.products := rfl
@[simp] theorem setBufferWaiting_catalog (s : State) (c : CellId) (b : Bool) : (setBufferWaiting c b s).catalog = s.catalog := rfl
@[simp] theorem setBufferWaiting_lots (s : State) (c : CellId) (b : Bool) : (setBufferWaiting c b s).lots = s.lots := rfl
@[simp] theorem setBufferWaiting_regCounter (s : State) (c : CellId) (b : Bool) : (setBufferWaiting c b s).regCounter = s.regCounter := rfl
@[simp] theorem setBufferWaiting_waitList (s : State) (c : CellId) (b : Bool) : (setBufferWaiting c b s).waitList = s.waitList := rfl
@[simp] theorem setBufferWaiting_waiting (s : State) (c : CellId) (b : Bool) : (setBufferWaiting c b s).waiting = s.waiting := rfl
@[simp] theorem setBufferWaiting_pointer (s : State) (c : CellId) (b : Bool) : (setBufferWaiting c b s).pointer = s.pointer := rfl
@[simp] theorem setBufferWaiting_agingLimit (s : State) (c : CellId) (b : Bool) : (setBufferWaiting c b s).agingLimit = s.agingLimit := rfl
@[simp] theorem setBufferWaiting_cells (s : State) (c : CellId) (b : Bool) : (setBufferWaiting c b s).cells = s.cells := rfl
@[simp] theorem setBufferWaiting_loads (s : State) (c : CellId) (b : Bool) : (setBufferWaiting c b s).loads = s.loads := rfl
@[simp] theorem setBufferWaiting_grantPointer (s : State) (c : CellId) (b : Bool) : (setBufferWaiting c b s).grantPointer = s.grantPointer := rfl
@[simp] theorem setBufferWaiting_buffers (s : State) (c : CellId) (b : Bool) : (setBufferWaiting c b s).buffers = s.buffers := rfl
@[simp] theorem setBufferWaiting_ports (s : State) (c : CellId) (b : Bool) : (setBufferWaiting c b s).ports = s.ports := rfl
@[simp] theorem setBufferWaiting_tallies (s : State) (c : CellId) (b : Bool) : (setBufferWaiting c b s).tallies = s.tallies := rfl
@[simp] theorem setBufferWaiting_runGroups (s : State) (c : CellId) (b : Bool) : (setBufferWaiting c b s).runGroups = s.runGroups := rfl
@[simp] theorem setBufferWaiting_baselines (s : State) (c : CellId) (b : Bool) : (setBufferWaiting c b s).baselines = s.baselines := rfl
@[simp] theorem setBufferWaiting_summaries (s : State) (c : CellId) (b : Bool) : (setBufferWaiting c b s).summaries = s.summaries := rfl
@[simp] theorem setBufferWaiting_checkMarks (s : State) (c : CellId) (b : Bool) : (setBufferWaiting c b s).checkMarks = s.checkMarks := rfl
@[simp] theorem setBufferWaiting_ships (s : State) (c : CellId) (b : Bool) : (setBufferWaiting c b s).ships = s.ships := rfl
@[simp] theorem setBufferWaiting_tickets (s : State) (c : CellId) (b : Bool) : (setBufferWaiting c b s).tickets = s.tickets := rfl
@[simp] theorem setBufferWaiting_ticketCounter (s : State) (c : CellId) (b : Bool) : (setBufferWaiting c b s).ticketCounter = s.ticketCounter := rfl
@[simp] theorem setBufferWaiting_host (s : State) (c : CellId) (b : Bool) : (setBufferWaiting c b s).host = s.host := rfl
@[simp] theorem setBufferWaiting_floorTime (s : State) (c : CellId) (b : Bool) : (setBufferWaiting c b s).floorTime = s.floorTime := rfl
@[simp] theorem setBufferWaiting_secondPhase (s : State) (c : CellId) (b : Bool) : (setBufferWaiting c b s).secondPhase = s.secondPhase := rfl
@[simp] theorem setBufferWaiting_freeTick (s : State) (c : CellId) (b : Bool) : (setBufferWaiting c b s).freeTick = s.freeTick := rfl
@[simp] theorem setBufferWaiting_cell (s : State) (c : CellId) (b : Bool) (d : CellId) : (setBufferWaiting c b s).cell d = s.cell d := rfl
@[simp] theorem setBufferWaiting_port (s : State) (c : CellId) (b : Bool) (d : CellId) : (setBufferWaiting c b s).port d = s.port d := rfl
@[simp] theorem setBufferWaiting_load (s : State) (c : CellId) (b : Bool) (d : CellId) : (setBufferWaiting c b s).load d = s.load d := rfl
@[simp] theorem setBufferWaiting_lot (s : State) (c : CellId) (b : Bool) (y : LotSlot) : (setBufferWaiting c b s).lot y = s.lot y := rfl
@[simp] theorem setBufferWaiting_product (s : State) (c : CellId) (b : Bool) (j : ProductIx) : (setBufferWaiting c b s).product j = s.product j := rfl
@[simp] theorem setBufferWaiting_tally (s : State) (c : CellId) (b : Bool) (y : LotSlot) : (setBufferWaiting c b s).tally y = s.tally y := rfl
@[simp] theorem setBufferWaiting_ship (s : State) (c : CellId) (b : Bool) (j : ShipSlot) : (setBufferWaiting c b s).ship j = s.ship j := rfl
@[simp] theorem setBufferWaiting_checkMark (s : State) (c : CellId) (b : Bool) (y : LotSlot) : (setBufferWaiting c b s).checkMark y = s.checkMark y := rfl

@[simp] theorem setBaseline_pending (s : State) (i : ProductIx) (k b : Nat) (v : Baseline) : (setBaseline i k b v s).pending = s.pending := by unfold setBaseline; split <;> rfl
@[simp] theorem setBaseline_products (s : State) (i : ProductIx) (k b : Nat) (v : Baseline) : (setBaseline i k b v s).products = s.products := by unfold setBaseline; split <;> rfl
@[simp] theorem setBaseline_catalog (s : State) (i : ProductIx) (k b : Nat) (v : Baseline) : (setBaseline i k b v s).catalog = s.catalog := by unfold setBaseline; split <;> rfl
@[simp] theorem setBaseline_lots (s : State) (i : ProductIx) (k b : Nat) (v : Baseline) : (setBaseline i k b v s).lots = s.lots := by unfold setBaseline; split <;> rfl
@[simp] theorem setBaseline_regCounter (s : State) (i : ProductIx) (k b : Nat) (v : Baseline) : (setBaseline i k b v s).regCounter = s.regCounter := by unfold setBaseline; split <;> rfl
@[simp] theorem setBaseline_waitList (s : State) (i : ProductIx) (k b : Nat) (v : Baseline) : (setBaseline i k b v s).waitList = s.waitList := by unfold setBaseline; split <;> rfl
@[simp] theorem setBaseline_waiting (s : State) (i : ProductIx) (k b : Nat) (v : Baseline) : (setBaseline i k b v s).waiting = s.waiting := by unfold setBaseline; split <;> rfl
@[simp] theorem setBaseline_pointer (s : State) (i : ProductIx) (k b : Nat) (v : Baseline) : (setBaseline i k b v s).pointer = s.pointer := by unfold setBaseline; split <;> rfl
@[simp] theorem setBaseline_agingLimit (s : State) (i : ProductIx) (k b : Nat) (v : Baseline) : (setBaseline i k b v s).agingLimit = s.agingLimit := by unfold setBaseline; split <;> rfl
@[simp] theorem setBaseline_cells (s : State) (i : ProductIx) (k b : Nat) (v : Baseline) : (setBaseline i k b v s).cells = s.cells := by unfold setBaseline; split <;> rfl
@[simp] theorem setBaseline_loads (s : State) (i : ProductIx) (k b : Nat) (v : Baseline) : (setBaseline i k b v s).loads = s.loads := by unfold setBaseline; split <;> rfl
@[simp] theorem setBaseline_bufferWaiting (s : State) (i : ProductIx) (k b : Nat) (v : Baseline) : (setBaseline i k b v s).bufferWaiting = s.bufferWaiting := by unfold setBaseline; split <;> rfl
@[simp] theorem setBaseline_grantPointer (s : State) (i : ProductIx) (k b : Nat) (v : Baseline) : (setBaseline i k b v s).grantPointer = s.grantPointer := by unfold setBaseline; split <;> rfl
@[simp] theorem setBaseline_buffers (s : State) (i : ProductIx) (k b : Nat) (v : Baseline) : (setBaseline i k b v s).buffers = s.buffers := by unfold setBaseline; split <;> rfl
@[simp] theorem setBaseline_ports (s : State) (i : ProductIx) (k b : Nat) (v : Baseline) : (setBaseline i k b v s).ports = s.ports := by unfold setBaseline; split <;> rfl
@[simp] theorem setBaseline_tallies (s : State) (i : ProductIx) (k b : Nat) (v : Baseline) : (setBaseline i k b v s).tallies = s.tallies := by unfold setBaseline; split <;> rfl
@[simp] theorem setBaseline_runGroups (s : State) (i : ProductIx) (k b : Nat) (v : Baseline) : (setBaseline i k b v s).runGroups = s.runGroups := by unfold setBaseline; split <;> rfl
@[simp] theorem setBaseline_summaries (s : State) (i : ProductIx) (k b : Nat) (v : Baseline) : (setBaseline i k b v s).summaries = s.summaries := by unfold setBaseline; split <;> rfl
@[simp] theorem setBaseline_checkMarks (s : State) (i : ProductIx) (k b : Nat) (v : Baseline) : (setBaseline i k b v s).checkMarks = s.checkMarks := by unfold setBaseline; split <;> rfl
@[simp] theorem setBaseline_ships (s : State) (i : ProductIx) (k b : Nat) (v : Baseline) : (setBaseline i k b v s).ships = s.ships := by unfold setBaseline; split <;> rfl
@[simp] theorem setBaseline_tickets (s : State) (i : ProductIx) (k b : Nat) (v : Baseline) : (setBaseline i k b v s).tickets = s.tickets := by unfold setBaseline; split <;> rfl
@[simp] theorem setBaseline_ticketCounter (s : State) (i : ProductIx) (k b : Nat) (v : Baseline) : (setBaseline i k b v s).ticketCounter = s.ticketCounter := by unfold setBaseline; split <;> rfl
@[simp] theorem setBaseline_host (s : State) (i : ProductIx) (k b : Nat) (v : Baseline) : (setBaseline i k b v s).host = s.host := by unfold setBaseline; split <;> rfl
@[simp] theorem setBaseline_floorTime (s : State) (i : ProductIx) (k b : Nat) (v : Baseline) : (setBaseline i k b v s).floorTime = s.floorTime := by unfold setBaseline; split <;> rfl
@[simp] theorem setBaseline_secondPhase (s : State) (i : ProductIx) (k b : Nat) (v : Baseline) : (setBaseline i k b v s).secondPhase = s.secondPhase := by unfold setBaseline; split <;> rfl
@[simp] theorem setBaseline_freeTick (s : State) (i : ProductIx) (k b : Nat) (v : Baseline) : (setBaseline i k b v s).freeTick = s.freeTick := by unfold setBaseline; split <;> rfl
@[simp] theorem setBaseline_cell (s : State) (i : ProductIx) (k b : Nat) (v : Baseline) (d : CellId) : (setBaseline i k b v s).cell d = s.cell d := by unfold setBaseline; split <;> rfl
@[simp] theorem setBaseline_port (s : State) (i : ProductIx) (k b : Nat) (v : Baseline) (d : CellId) : (setBaseline i k b v s).port d = s.port d := by unfold setBaseline; split <;> rfl
@[simp] theorem setBaseline_load (s : State) (i : ProductIx) (k b : Nat) (v : Baseline) (d : CellId) : (setBaseline i k b v s).load d = s.load d := by unfold setBaseline; split <;> rfl
@[simp] theorem setBaseline_lot (s : State) (i : ProductIx) (k b : Nat) (v : Baseline) (y : LotSlot) : (setBaseline i k b v s).lot y = s.lot y := by unfold setBaseline; split <;> rfl
@[simp] theorem setBaseline_product (s : State) (i : ProductIx) (k b : Nat) (v : Baseline) (j : ProductIx) : (setBaseline i k b v s).product j = s.product j := by unfold setBaseline; split <;> rfl
@[simp] theorem setBaseline_tally (s : State) (i : ProductIx) (k b : Nat) (v : Baseline) (y : LotSlot) : (setBaseline i k b v s).tally y = s.tally y := by unfold setBaseline; split <;> rfl
@[simp] theorem setBaseline_ship (s : State) (i : ProductIx) (k b : Nat) (v : Baseline) (j : ShipSlot) : (setBaseline i k b v s).ship j = s.ship j := by unfold setBaseline; split <;> rfl
@[simp] theorem setBaseline_checkMark (s : State) (i : ProductIx) (k b : Nat) (v : Baseline) (y : LotSlot) : (setBaseline i k b v s).checkMark y = s.checkMark y := by unfold setBaseline; split <;> rfl

@[simp] theorem resetBaselines_pending (s : State) (i : ProductIx) : (resetBaselines i s).pending = s.pending := rfl
@[simp] theorem resetBaselines_products (s : State) (i : ProductIx) : (resetBaselines i s).products = s.products := rfl
@[simp] theorem resetBaselines_catalog (s : State) (i : ProductIx) : (resetBaselines i s).catalog = s.catalog := rfl
@[simp] theorem resetBaselines_lots (s : State) (i : ProductIx) : (resetBaselines i s).lots = s.lots := rfl
@[simp] theorem resetBaselines_regCounter (s : State) (i : ProductIx) : (resetBaselines i s).regCounter = s.regCounter := rfl
@[simp] theorem resetBaselines_waitList (s : State) (i : ProductIx) : (resetBaselines i s).waitList = s.waitList := rfl
@[simp] theorem resetBaselines_waiting (s : State) (i : ProductIx) : (resetBaselines i s).waiting = s.waiting := rfl
@[simp] theorem resetBaselines_pointer (s : State) (i : ProductIx) : (resetBaselines i s).pointer = s.pointer := rfl
@[simp] theorem resetBaselines_agingLimit (s : State) (i : ProductIx) : (resetBaselines i s).agingLimit = s.agingLimit := rfl
@[simp] theorem resetBaselines_cells (s : State) (i : ProductIx) : (resetBaselines i s).cells = s.cells := rfl
@[simp] theorem resetBaselines_loads (s : State) (i : ProductIx) : (resetBaselines i s).loads = s.loads := rfl
@[simp] theorem resetBaselines_bufferWaiting (s : State) (i : ProductIx) : (resetBaselines i s).bufferWaiting = s.bufferWaiting := rfl
@[simp] theorem resetBaselines_grantPointer (s : State) (i : ProductIx) : (resetBaselines i s).grantPointer = s.grantPointer := rfl
@[simp] theorem resetBaselines_buffers (s : State) (i : ProductIx) : (resetBaselines i s).buffers = s.buffers := rfl
@[simp] theorem resetBaselines_ports (s : State) (i : ProductIx) : (resetBaselines i s).ports = s.ports := rfl
@[simp] theorem resetBaselines_tallies (s : State) (i : ProductIx) : (resetBaselines i s).tallies = s.tallies := rfl
@[simp] theorem resetBaselines_runGroups (s : State) (i : ProductIx) : (resetBaselines i s).runGroups = s.runGroups := rfl
@[simp] theorem resetBaselines_summaries (s : State) (i : ProductIx) : (resetBaselines i s).summaries = s.summaries := rfl
@[simp] theorem resetBaselines_checkMarks (s : State) (i : ProductIx) : (resetBaselines i s).checkMarks = s.checkMarks := rfl
@[simp] theorem resetBaselines_ships (s : State) (i : ProductIx) : (resetBaselines i s).ships = s.ships := rfl
@[simp] theorem resetBaselines_tickets (s : State) (i : ProductIx) : (resetBaselines i s).tickets = s.tickets := rfl
@[simp] theorem resetBaselines_ticketCounter (s : State) (i : ProductIx) : (resetBaselines i s).ticketCounter = s.ticketCounter := rfl
@[simp] theorem resetBaselines_host (s : State) (i : ProductIx) : (resetBaselines i s).host = s.host := rfl
@[simp] theorem resetBaselines_floorTime (s : State) (i : ProductIx) : (resetBaselines i s).floorTime = s.floorTime := rfl
@[simp] theorem resetBaselines_secondPhase (s : State) (i : ProductIx) : (resetBaselines i s).secondPhase = s.secondPhase := rfl
@[simp] theorem resetBaselines_freeTick (s : State) (i : ProductIx) : (resetBaselines i s).freeTick = s.freeTick := rfl
@[simp] theorem resetBaselines_cell (s : State) (i : ProductIx) (d : CellId) : (resetBaselines i s).cell d = s.cell d := rfl
@[simp] theorem resetBaselines_port (s : State) (i : ProductIx) (d : CellId) : (resetBaselines i s).port d = s.port d := rfl
@[simp] theorem resetBaselines_load (s : State) (i : ProductIx) (d : CellId) : (resetBaselines i s).load d = s.load d := rfl
@[simp] theorem resetBaselines_lot (s : State) (i : ProductIx) (y : LotSlot) : (resetBaselines i s).lot y = s.lot y := rfl
@[simp] theorem resetBaselines_product (s : State) (i : ProductIx) (j : ProductIx) : (resetBaselines i s).product j = s.product j := rfl
@[simp] theorem resetBaselines_tally (s : State) (i : ProductIx) (y : LotSlot) : (resetBaselines i s).tally y = s.tally y := rfl
@[simp] theorem resetBaselines_ship (s : State) (i : ProductIx) (j : ShipSlot) : (resetBaselines i s).ship j = s.ship j := rfl
@[simp] theorem resetBaselines_checkMark (s : State) (i : ProductIx) (y : LotSlot) : (resetBaselines i s).checkMark y = s.checkMark y := rfl

@[simp] theorem modHost_pending (s : State) (f : HostLink → HostLink) : (modHost f s).pending = s.pending := rfl
@[simp] theorem modHost_products (s : State) (f : HostLink → HostLink) : (modHost f s).products = s.products := rfl
@[simp] theorem modHost_catalog (s : State) (f : HostLink → HostLink) : (modHost f s).catalog = s.catalog := rfl
@[simp] theorem modHost_lots (s : State) (f : HostLink → HostLink) : (modHost f s).lots = s.lots := rfl
@[simp] theorem modHost_regCounter (s : State) (f : HostLink → HostLink) : (modHost f s).regCounter = s.regCounter := rfl
@[simp] theorem modHost_waitList (s : State) (f : HostLink → HostLink) : (modHost f s).waitList = s.waitList := rfl
@[simp] theorem modHost_waiting (s : State) (f : HostLink → HostLink) : (modHost f s).waiting = s.waiting := rfl
@[simp] theorem modHost_pointer (s : State) (f : HostLink → HostLink) : (modHost f s).pointer = s.pointer := rfl
@[simp] theorem modHost_agingLimit (s : State) (f : HostLink → HostLink) : (modHost f s).agingLimit = s.agingLimit := rfl
@[simp] theorem modHost_cells (s : State) (f : HostLink → HostLink) : (modHost f s).cells = s.cells := rfl
@[simp] theorem modHost_loads (s : State) (f : HostLink → HostLink) : (modHost f s).loads = s.loads := rfl
@[simp] theorem modHost_bufferWaiting (s : State) (f : HostLink → HostLink) : (modHost f s).bufferWaiting = s.bufferWaiting := rfl
@[simp] theorem modHost_grantPointer (s : State) (f : HostLink → HostLink) : (modHost f s).grantPointer = s.grantPointer := rfl
@[simp] theorem modHost_buffers (s : State) (f : HostLink → HostLink) : (modHost f s).buffers = s.buffers := rfl
@[simp] theorem modHost_ports (s : State) (f : HostLink → HostLink) : (modHost f s).ports = s.ports := rfl
@[simp] theorem modHost_tallies (s : State) (f : HostLink → HostLink) : (modHost f s).tallies = s.tallies := rfl
@[simp] theorem modHost_runGroups (s : State) (f : HostLink → HostLink) : (modHost f s).runGroups = s.runGroups := rfl
@[simp] theorem modHost_baselines (s : State) (f : HostLink → HostLink) : (modHost f s).baselines = s.baselines := rfl
@[simp] theorem modHost_summaries (s : State) (f : HostLink → HostLink) : (modHost f s).summaries = s.summaries := rfl
@[simp] theorem modHost_checkMarks (s : State) (f : HostLink → HostLink) : (modHost f s).checkMarks = s.checkMarks := rfl
@[simp] theorem modHost_ships (s : State) (f : HostLink → HostLink) : (modHost f s).ships = s.ships := rfl
@[simp] theorem modHost_tickets (s : State) (f : HostLink → HostLink) : (modHost f s).tickets = s.tickets := rfl
@[simp] theorem modHost_ticketCounter (s : State) (f : HostLink → HostLink) : (modHost f s).ticketCounter = s.ticketCounter := rfl
@[simp] theorem modHost_floorTime (s : State) (f : HostLink → HostLink) : (modHost f s).floorTime = s.floorTime := rfl
@[simp] theorem modHost_secondPhase (s : State) (f : HostLink → HostLink) : (modHost f s).secondPhase = s.secondPhase := rfl
@[simp] theorem modHost_freeTick (s : State) (f : HostLink → HostLink) : (modHost f s).freeTick = s.freeTick := rfl
@[simp] theorem modHost_cell (s : State) (f : HostLink → HostLink) (d : CellId) : (modHost f s).cell d = s.cell d := rfl
@[simp] theorem modHost_port (s : State) (f : HostLink → HostLink) (d : CellId) : (modHost f s).port d = s.port d := rfl
@[simp] theorem modHost_load (s : State) (f : HostLink → HostLink) (d : CellId) : (modHost f s).load d = s.load d := rfl
@[simp] theorem modHost_lot (s : State) (f : HostLink → HostLink) (y : LotSlot) : (modHost f s).lot y = s.lot y := rfl
@[simp] theorem modHost_product (s : State) (f : HostLink → HostLink) (j : ProductIx) : (modHost f s).product j = s.product j := rfl
@[simp] theorem modHost_tally (s : State) (f : HostLink → HostLink) (y : LotSlot) : (modHost f s).tally y = s.tally y := rfl
@[simp] theorem modHost_ship (s : State) (f : HostLink → HostLink) (j : ShipSlot) : (modHost f s).ship j = s.ship j := rfl
@[simp] theorem modHost_checkMark (s : State) (f : HostLink → HostLink) (y : LotSlot) : (modHost f s).checkMark y = s.checkMark y := rfl

@[simp] theorem raise_pending (s : State) (r : Report) : (raise r s).pending = s.pending := by unfold raise; split <;> rfl
@[simp] theorem raise_products (s : State) (r : Report) : (raise r s).products = s.products := by unfold raise; split <;> rfl
@[simp] theorem raise_catalog (s : State) (r : Report) : (raise r s).catalog = s.catalog := by unfold raise; split <;> rfl
@[simp] theorem raise_lots (s : State) (r : Report) : (raise r s).lots = s.lots := by unfold raise; split <;> rfl
@[simp] theorem raise_regCounter (s : State) (r : Report) : (raise r s).regCounter = s.regCounter := by unfold raise; split <;> rfl
@[simp] theorem raise_waitList (s : State) (r : Report) : (raise r s).waitList = s.waitList := by unfold raise; split <;> rfl
@[simp] theorem raise_waiting (s : State) (r : Report) : (raise r s).waiting = s.waiting := by unfold raise; split <;> rfl
@[simp] theorem raise_pointer (s : State) (r : Report) : (raise r s).pointer = s.pointer := by unfold raise; split <;> rfl
@[simp] theorem raise_agingLimit (s : State) (r : Report) : (raise r s).agingLimit = s.agingLimit := by unfold raise; split <;> rfl
@[simp] theorem raise_cells (s : State) (r : Report) : (raise r s).cells = s.cells := by unfold raise; split <;> rfl
@[simp] theorem raise_loads (s : State) (r : Report) : (raise r s).loads = s.loads := by unfold raise; split <;> rfl
@[simp] theorem raise_bufferWaiting (s : State) (r : Report) : (raise r s).bufferWaiting = s.bufferWaiting := by unfold raise; split <;> rfl
@[simp] theorem raise_grantPointer (s : State) (r : Report) : (raise r s).grantPointer = s.grantPointer := by unfold raise; split <;> rfl
@[simp] theorem raise_buffers (s : State) (r : Report) : (raise r s).buffers = s.buffers := by unfold raise; split <;> rfl
@[simp] theorem raise_ports (s : State) (r : Report) : (raise r s).ports = s.ports := by unfold raise; split <;> rfl
@[simp] theorem raise_tallies (s : State) (r : Report) : (raise r s).tallies = s.tallies := by unfold raise; split <;> rfl
@[simp] theorem raise_runGroups (s : State) (r : Report) : (raise r s).runGroups = s.runGroups := by unfold raise; split <;> rfl
@[simp] theorem raise_baselines (s : State) (r : Report) : (raise r s).baselines = s.baselines := by unfold raise; split <;> rfl
@[simp] theorem raise_summaries (s : State) (r : Report) : (raise r s).summaries = s.summaries := by unfold raise; split <;> rfl
@[simp] theorem raise_checkMarks (s : State) (r : Report) : (raise r s).checkMarks = s.checkMarks := by unfold raise; split <;> rfl
@[simp] theorem raise_ships (s : State) (r : Report) : (raise r s).ships = s.ships := by unfold raise; split <;> rfl
@[simp] theorem raise_tickets (s : State) (r : Report) : (raise r s).tickets = s.tickets := by unfold raise; split <;> rfl
@[simp] theorem raise_ticketCounter (s : State) (r : Report) : (raise r s).ticketCounter = s.ticketCounter := by unfold raise; split <;> rfl
@[simp] theorem raise_floorTime (s : State) (r : Report) : (raise r s).floorTime = s.floorTime := by unfold raise; split <;> rfl
@[simp] theorem raise_secondPhase (s : State) (r : Report) : (raise r s).secondPhase = s.secondPhase := by unfold raise; split <;> rfl
@[simp] theorem raise_freeTick (s : State) (r : Report) : (raise r s).freeTick = s.freeTick := by unfold raise; split <;> rfl
@[simp] theorem raise_cell (s : State) (r : Report) (d : CellId) : (raise r s).cell d = s.cell d := by unfold raise; split <;> rfl
@[simp] theorem raise_port (s : State) (r : Report) (d : CellId) : (raise r s).port d = s.port d := by unfold raise; split <;> rfl
@[simp] theorem raise_load (s : State) (r : Report) (d : CellId) : (raise r s).load d = s.load d := by unfold raise; split <;> rfl
@[simp] theorem raise_lot (s : State) (r : Report) (y : LotSlot) : (raise r s).lot y = s.lot y := by unfold raise; split <;> rfl
@[simp] theorem raise_product (s : State) (r : Report) (j : ProductIx) : (raise r s).product j = s.product j := by unfold raise; split <;> rfl
@[simp] theorem raise_tally (s : State) (r : Report) (y : LotSlot) : (raise r s).tally y = s.tally y := by unfold raise; split <;> rfl
@[simp] theorem raise_ship (s : State) (r : Report) (j : ShipSlot) : (raise r s).ship j = s.ship j := by unfold raise; split <;> rfl
@[simp] theorem raise_checkMark (s : State) (r : Report) (y : LotSlot) : (raise r s).checkMark y = s.checkMark y := by unfold raise; split <;> rfl

@[simp] theorem settleHost_pending (s : State) : (settleHost s).pending = s.pending := rfl
@[simp] theorem settleHost_products (s : State) : (settleHost s).products = s.products := rfl
@[simp] theorem settleHost_catalog (s : State) : (settleHost s).catalog = s.catalog := rfl
@[simp] theorem settleHost_lots (s : State) : (settleHost s).lots = s.lots := rfl
@[simp] theorem settleHost_regCounter (s : State) : (settleHost s).regCounter = s.regCounter := rfl
@[simp] theorem settleHost_waitList (s : State) : (settleHost s).waitList = s.waitList := rfl
@[simp] theorem settleHost_waiting (s : State) : (settleHost s).waiting = s.waiting := rfl
@[simp] theorem settleHost_pointer (s : State) : (settleHost s).pointer = s.pointer := rfl
@[simp] theorem settleHost_agingLimit (s : State) : (settleHost s).agingLimit = s.agingLimit := rfl
@[simp] theorem settleHost_cells (s : State) : (settleHost s).cells = s.cells := rfl
@[simp] theorem settleHost_loads (s : State) : (settleHost s).loads = s.loads := rfl
@[simp] theorem settleHost_bufferWaiting (s : State) : (settleHost s).bufferWaiting = s.bufferWaiting := rfl
@[simp] theorem settleHost_grantPointer (s : State) : (settleHost s).grantPointer = s.grantPointer := rfl
@[simp] theorem settleHost_buffers (s : State) : (settleHost s).buffers = s.buffers := rfl
@[simp] theorem settleHost_ports (s : State) : (settleHost s).ports = s.ports := rfl
@[simp] theorem settleHost_tallies (s : State) : (settleHost s).tallies = s.tallies := rfl
@[simp] theorem settleHost_runGroups (s : State) : (settleHost s).runGroups = s.runGroups := rfl
@[simp] theorem settleHost_baselines (s : State) : (settleHost s).baselines = s.baselines := rfl
@[simp] theorem settleHost_summaries (s : State) : (settleHost s).summaries = s.summaries := rfl
@[simp] theorem settleHost_checkMarks (s : State) : (settleHost s).checkMarks = s.checkMarks := rfl
@[simp] theorem settleHost_ships (s : State) : (settleHost s).ships = s.ships := rfl
@[simp] theorem settleHost_tickets (s : State) : (settleHost s).tickets = s.tickets := rfl
@[simp] theorem settleHost_ticketCounter (s : State) : (settleHost s).ticketCounter = s.ticketCounter := rfl
@[simp] theorem settleHost_floorTime (s : State) : (settleHost s).floorTime = s.floorTime := rfl
@[simp] theorem settleHost_secondPhase (s : State) : (settleHost s).secondPhase = s.secondPhase := rfl
@[simp] theorem settleHost_cell (s : State)  (d : CellId) : (settleHost s).cell d = s.cell d := rfl
@[simp] theorem settleHost_port (s : State)  (d : CellId) : (settleHost s).port d = s.port d := rfl
@[simp] theorem settleHost_load (s : State)  (d : CellId) : (settleHost s).load d = s.load d := rfl
@[simp] theorem settleHost_lot (s : State)  (y : LotSlot) : (settleHost s).lot y = s.lot y := rfl
@[simp] theorem settleHost_product (s : State)  (j : ProductIx) : (settleHost s).product j = s.product j := rfl
@[simp] theorem settleHost_tally (s : State)  (y : LotSlot) : (settleHost s).tally y = s.tally y := rfl
@[simp] theorem settleHost_ship (s : State)  (j : ShipSlot) : (settleHost s).ship j = s.ship j := rfl
@[simp] theorem settleHost_checkMark (s : State)  (y : LotSlot) : (settleHost s).checkMark y = s.checkMark y := rfl

@[simp] theorem answered_pending (s : State) (t : BitVec 16) (k : RequestKind) (a : Answer) : (s.answered t k a).pending = s.pending := rfl
@[simp] theorem answered_products (s : State) (t : BitVec 16) (k : RequestKind) (a : Answer) : (s.answered t k a).products = s.products := rfl
@[simp] theorem answered_catalog (s : State) (t : BitVec 16) (k : RequestKind) (a : Answer) : (s.answered t k a).catalog = s.catalog := rfl
@[simp] theorem answered_lots (s : State) (t : BitVec 16) (k : RequestKind) (a : Answer) : (s.answered t k a).lots = s.lots := rfl
@[simp] theorem answered_regCounter (s : State) (t : BitVec 16) (k : RequestKind) (a : Answer) : (s.answered t k a).regCounter = s.regCounter := rfl
@[simp] theorem answered_waitList (s : State) (t : BitVec 16) (k : RequestKind) (a : Answer) : (s.answered t k a).waitList = s.waitList := rfl
@[simp] theorem answered_waiting (s : State) (t : BitVec 16) (k : RequestKind) (a : Answer) : (s.answered t k a).waiting = s.waiting := rfl
@[simp] theorem answered_pointer (s : State) (t : BitVec 16) (k : RequestKind) (a : Answer) : (s.answered t k a).pointer = s.pointer := rfl
@[simp] theorem answered_agingLimit (s : State) (t : BitVec 16) (k : RequestKind) (a : Answer) : (s.answered t k a).agingLimit = s.agingLimit := rfl
@[simp] theorem answered_cells (s : State) (t : BitVec 16) (k : RequestKind) (a : Answer) : (s.answered t k a).cells = s.cells := rfl
@[simp] theorem answered_loads (s : State) (t : BitVec 16) (k : RequestKind) (a : Answer) : (s.answered t k a).loads = s.loads := rfl
@[simp] theorem answered_bufferWaiting (s : State) (t : BitVec 16) (k : RequestKind) (a : Answer) : (s.answered t k a).bufferWaiting = s.bufferWaiting := rfl
@[simp] theorem answered_grantPointer (s : State) (t : BitVec 16) (k : RequestKind) (a : Answer) : (s.answered t k a).grantPointer = s.grantPointer := rfl
@[simp] theorem answered_buffers (s : State) (t : BitVec 16) (k : RequestKind) (a : Answer) : (s.answered t k a).buffers = s.buffers := rfl
@[simp] theorem answered_ports (s : State) (t : BitVec 16) (k : RequestKind) (a : Answer) : (s.answered t k a).ports = s.ports := rfl
@[simp] theorem answered_tallies (s : State) (t : BitVec 16) (k : RequestKind) (a : Answer) : (s.answered t k a).tallies = s.tallies := rfl
@[simp] theorem answered_runGroups (s : State) (t : BitVec 16) (k : RequestKind) (a : Answer) : (s.answered t k a).runGroups = s.runGroups := rfl
@[simp] theorem answered_baselines (s : State) (t : BitVec 16) (k : RequestKind) (a : Answer) : (s.answered t k a).baselines = s.baselines := rfl
@[simp] theorem answered_summaries (s : State) (t : BitVec 16) (k : RequestKind) (a : Answer) : (s.answered t k a).summaries = s.summaries := rfl
@[simp] theorem answered_checkMarks (s : State) (t : BitVec 16) (k : RequestKind) (a : Answer) : (s.answered t k a).checkMarks = s.checkMarks := rfl
@[simp] theorem answered_ships (s : State) (t : BitVec 16) (k : RequestKind) (a : Answer) : (s.answered t k a).ships = s.ships := rfl
@[simp] theorem answered_tickets (s : State) (t : BitVec 16) (k : RequestKind) (a : Answer) : (s.answered t k a).tickets = s.tickets := rfl
@[simp] theorem answered_ticketCounter (s : State) (t : BitVec 16) (k : RequestKind) (a : Answer) : (s.answered t k a).ticketCounter = s.ticketCounter := rfl
@[simp] theorem answered_floorTime (s : State) (t : BitVec 16) (k : RequestKind) (a : Answer) : (s.answered t k a).floorTime = s.floorTime := rfl
@[simp] theorem answered_secondPhase (s : State) (t : BitVec 16) (k : RequestKind) (a : Answer) : (s.answered t k a).secondPhase = s.secondPhase := rfl
@[simp] theorem answered_cell (s : State) (t : BitVec 16) (k : RequestKind) (a : Answer) (d : CellId) : (s.answered t k a).cell d = s.cell d := rfl
@[simp] theorem answered_port (s : State) (t : BitVec 16) (k : RequestKind) (a : Answer) (d : CellId) : (s.answered t k a).port d = s.port d := rfl
@[simp] theorem answered_load (s : State) (t : BitVec 16) (k : RequestKind) (a : Answer) (d : CellId) : (s.answered t k a).load d = s.load d := rfl
@[simp] theorem answered_lot (s : State) (t : BitVec 16) (k : RequestKind) (a : Answer) (y : LotSlot) : (s.answered t k a).lot y = s.lot y := rfl
@[simp] theorem answered_product (s : State) (t : BitVec 16) (k : RequestKind) (a : Answer) (j : ProductIx) : (s.answered t k a).product j = s.product j := rfl
@[simp] theorem answered_tally (s : State) (t : BitVec 16) (k : RequestKind) (a : Answer) (y : LotSlot) : (s.answered t k a).tally y = s.tally y := rfl
@[simp] theorem answered_ship (s : State) (t : BitVec 16) (k : RequestKind) (a : Answer) (j : ShipSlot) : (s.answered t k a).ship j = s.ship j := rfl
@[simp] theorem answered_checkMark (s : State) (t : BitVec 16) (k : RequestKind) (a : Answer) (y : LotSlot) : (s.answered t k a).checkMark y = s.checkMark y := rfl

@[simp] theorem trimFlags_pending (s : State) (i : ProductIx) : (trimFlags i s).pending = s.pending := by unfold trimFlags; rfl
@[simp] theorem trimFlags_products (s : State) (i : ProductIx) : (trimFlags i s).products = s.products := by unfold trimFlags; rfl
@[simp] theorem trimFlags_catalog (s : State) (i : ProductIx) : (trimFlags i s).catalog = s.catalog := by unfold trimFlags; rfl
@[simp] theorem trimFlags_lots (s : State) (i : ProductIx) : (trimFlags i s).lots = s.lots := by unfold trimFlags; rfl
@[simp] theorem trimFlags_regCounter (s : State) (i : ProductIx) : (trimFlags i s).regCounter = s.regCounter := by unfold trimFlags; rfl
@[simp] theorem trimFlags_waitList (s : State) (i : ProductIx) : (trimFlags i s).waitList = s.waitList := by unfold trimFlags; rfl
@[simp] theorem trimFlags_waiting (s : State) (i : ProductIx) : (trimFlags i s).waiting = s.waiting := by unfold trimFlags; rfl
@[simp] theorem trimFlags_pointer (s : State) (i : ProductIx) : (trimFlags i s).pointer = s.pointer := by unfold trimFlags; rfl
@[simp] theorem trimFlags_agingLimit (s : State) (i : ProductIx) : (trimFlags i s).agingLimit = s.agingLimit := by unfold trimFlags; rfl
@[simp] theorem trimFlags_cells (s : State) (i : ProductIx) : (trimFlags i s).cells = s.cells := by unfold trimFlags; rfl
@[simp] theorem trimFlags_loads (s : State) (i : ProductIx) : (trimFlags i s).loads = s.loads := by unfold trimFlags; rfl
@[simp] theorem trimFlags_bufferWaiting (s : State) (i : ProductIx) : (trimFlags i s).bufferWaiting = s.bufferWaiting := by unfold trimFlags; rfl
@[simp] theorem trimFlags_grantPointer (s : State) (i : ProductIx) : (trimFlags i s).grantPointer = s.grantPointer := by unfold trimFlags; rfl
@[simp] theorem trimFlags_buffers (s : State) (i : ProductIx) : (trimFlags i s).buffers = s.buffers := by unfold trimFlags; rfl
@[simp] theorem trimFlags_ports (s : State) (i : ProductIx) : (trimFlags i s).ports = s.ports := by unfold trimFlags; rfl
@[simp] theorem trimFlags_runGroups (s : State) (i : ProductIx) : (trimFlags i s).runGroups = s.runGroups := by unfold trimFlags; rfl
@[simp] theorem trimFlags_baselines (s : State) (i : ProductIx) : (trimFlags i s).baselines = s.baselines := by unfold trimFlags; rfl
@[simp] theorem trimFlags_summaries (s : State) (i : ProductIx) : (trimFlags i s).summaries = s.summaries := by unfold trimFlags; rfl
@[simp] theorem trimFlags_checkMarks (s : State) (i : ProductIx) : (trimFlags i s).checkMarks = s.checkMarks := by unfold trimFlags; rfl
@[simp] theorem trimFlags_ships (s : State) (i : ProductIx) : (trimFlags i s).ships = s.ships := by unfold trimFlags; rfl
@[simp] theorem trimFlags_tickets (s : State) (i : ProductIx) : (trimFlags i s).tickets = s.tickets := by unfold trimFlags; rfl
@[simp] theorem trimFlags_ticketCounter (s : State) (i : ProductIx) : (trimFlags i s).ticketCounter = s.ticketCounter := by unfold trimFlags; rfl
@[simp] theorem trimFlags_host (s : State) (i : ProductIx) : (trimFlags i s).host = s.host := by unfold trimFlags; rfl
@[simp] theorem trimFlags_floorTime (s : State) (i : ProductIx) : (trimFlags i s).floorTime = s.floorTime := by unfold trimFlags; rfl
@[simp] theorem trimFlags_secondPhase (s : State) (i : ProductIx) : (trimFlags i s).secondPhase = s.secondPhase := by unfold trimFlags; rfl
@[simp] theorem trimFlags_freeTick (s : State) (i : ProductIx) : (trimFlags i s).freeTick = s.freeTick := by unfold trimFlags; rfl
@[simp] theorem trimFlags_cell (s : State) (i : ProductIx) (d : CellId) : (trimFlags i s).cell d = s.cell d := by unfold State.cell; rw [trimFlags_cells]
@[simp] theorem trimFlags_port (s : State) (i : ProductIx) (d : CellId) : (trimFlags i s).port d = s.port d := by unfold State.port; rw [trimFlags_ports]
@[simp] theorem trimFlags_load (s : State) (i : ProductIx) (d : CellId) : (trimFlags i s).load d = s.load d := by unfold State.load; rw [trimFlags_loads]
@[simp] theorem trimFlags_lot (s : State) (i : ProductIx) (y : LotSlot) : (trimFlags i s).lot y = s.lot y := by unfold State.lot; rw [trimFlags_lots]
@[simp] theorem trimFlags_product (s : State) (i : ProductIx) (j : ProductIx) : (trimFlags i s).product j = s.product j := by unfold State.product; rw [trimFlags_products]
@[simp] theorem trimFlags_ship (s : State) (i : ProductIx) (j : ShipSlot) : (trimFlags i s).ship j = s.ship j := by unfold State.ship; rw [trimFlags_ships]
@[simp] theorem trimFlags_checkMark (s : State) (i : ProductIx) (y : LotSlot) : (trimFlags i s).checkMark y = s.checkMark y := by unfold State.checkMark; rw [trimFlags_checkMarks]

/-! ### The record an update changes -/

@[simp] theorem setCell_cell_self (s : State) (c : CellId) (x : Cell) : (s.setCell c x).cell c = x := get_set_same _ _ _
theorem setCell_cell (s : State) (c d : CellId) (x : Cell) : (s.setCell c x).cell d = if c = d then x else s.cell d :=
  get_set _ _ _ _
@[simp] theorem modCell_cell_self (s : State) (c : CellId) (f : Cell → Cell) : (modCell c f s).cell c = f (s.cell c) :=
  get_set_same _ _ _
theorem modCell_cell (s : State) (c d : CellId) (f : Cell → Cell) :
    (modCell c f s).cell d = if c = d then f (s.cell c) else s.cell d := get_set _ _ _ _
@[simp] theorem modPort_port_self (s : State) (c : CellId) (f : Port → Port) : (modPort c f s).port c = f (s.port c) :=
  get_set_same _ _ _
theorem modPort_port (s : State) (c d : CellId) (f : Port → Port) :
    (modPort c f s).port d = if c = d then f (s.port c) else s.port d := get_set _ _ _ _
@[simp] theorem modLoad_load_self (s : State) (c : CellId) (f : Load → Load) : (modLoad c f s).load c = f (s.load c) :=
  get_set_same _ _ _
theorem modLoad_load (s : State) (c d : CellId) (f : Load → Load) :
    (modLoad c f s).load d = if c = d then f (s.load c) else s.load d := get_set _ _ _ _
@[simp] theorem setLot_lot_self (s : State) (x : LotSlot) (l : Option Lot) : (s.setLot x l).lot x = l := get_set_same _ _ _
theorem setLot_lot (s : State) (x y : LotSlot) (l : Option Lot) : (s.setLot x l).lot y = if x = y then l else s.lot y :=
  get_set _ _ _ _
@[simp] theorem modLot_lot_self (s : State) (x : LotSlot) (f : Lot → Lot) : (modLot x f s).lot x = (s.lot x).map f :=
  get_set_same _ _ _
theorem modLot_lot (s : State) (x y : LotSlot) (f : Lot → Lot) :
    (modLot x f s).lot y = if x = y then (s.lot x).map f else s.lot y := get_set _ _ _ _
@[simp] theorem setProduct_product_self (s : State) (i : ProductIx) (p : Option Product) : (s.setProduct i p).product i = p :=
  get_set_same _ _ _
theorem setProduct_product (s : State) (i j : ProductIx) (p : Option Product) :
    (s.setProduct i p).product j = if i = j then p else s.product j := get_set _ _ _ _
theorem modProduct_product (s : State) (i j : ProductIx) (f : Product → Product) :
    (modProduct i f s).product j = if i = j then (s.product i).map f else s.product j := get_set _ _ _ _
@[simp] theorem modTally_tally_self (s : State) (x : LotSlot) (f : LotStepRec → LotStepRec) :
    (modTally x f s).tally x = f (s.tally x) := get_set_same _ _ _
theorem modTally_tally (s : State) (x y : LotSlot) (f : LotStepRec → LotStepRec) :
    (modTally x f s).tally y = if x = y then f (s.tally x) else s.tally y := get_set _ _ _ _
@[simp] theorem setShip_ship_self (s : State) (k : ShipSlot) (h : Option Shipment) : (s.setShip k h).ship k = h :=
  get_set_same _ _ _
theorem setShip_ship (s : State) (k j : ShipSlot) (h : Option Shipment) :
    (s.setShip k h).ship j = if k = j then h else s.ship j := get_set _ _ _ _
theorem modShip_ship (s : State) (k j : ShipSlot) (f : Shipment → Shipment) :
    (modShip k f s).ship j = if k = j then (s.ship k).map f else s.ship j := get_set _ _ _ _
theorem setWaiting_get (s : State) (c d : CellId) (b : Bool) :
    (setWaiting c b s).waiting.get d = if c = d then b else s.waiting.get d := get_set _ _ _ _
theorem setBufferWaiting_get (s : State) (c d : CellId) (b : Bool) :
    (setBufferWaiting c b s).bufferWaiting.get d = if c = d then b else s.bufferWaiting.get d := get_set _ _ _ _
/-- What a replacement leaves of a lot step record (R123). -/
@[simp] theorem trimFlags_tally (s : State) (i : ProductIx) (x : LotSlot) : (trimFlags i s).tally x = s.trimmedTally i x := by
  unfold trimFlags State.trimmedTallies State.tally
  simp [Vector.get_eq_getElem]
@[simp] theorem modHost_host (s : State) (f : HostLink → HostLink) : (modHost f s).host = f s.host := rfl

end Sys2Proof.Machine
end

