-- ==== Sys2Proof/Laws/Forms.lean ====
section
/-! SUPPORT. The text fields and the kind codes: a text of the form R186 gives reads as itself, and no two kinds of a line share a
code. -/

namespace Sys2Proof.Machine

open Sys2Proof

/-! ### Texts (R186) -/

/-- A character code is no pad byte. -/
theorem textChar_ne_zero {b : Byte} (h : textChar b = true) : b ≠ 0 := by rintro rfl; simp [textChar] at h

/-- Characters without a pad are all of their field. -/
theorem fieldChars_of_textChars {t : Text} (h : t.all textChar = true) : fieldChars t = t := by
  induction t with
  | nil => rfl
  | cons b t ih =>
    simp only [List.all_cons, Bool.and_eq_true] at h
    have := textChar_ne_zero h.1
    unfold fieldChars at ih ⊢
    rw [List.takeWhile_cons, if_pos (decide_eq_true this), ih h.2]

theorem padOf_textChars {t : Text} (h : t.all textChar = true) : t.dropWhile (· ≠ 0) = [] := by
  have e := List.takeWhile_append_dropWhile (p := fun b : Byte => decide (b ≠ 0)) (l := t)
  have f : t.takeWhile (fun b : Byte => decide (b ≠ 0)) = t := fieldChars_of_textChars h
  rw [f] at e
  exact List.append_right_eq_self.mp e

/-- A text of the form R186 gives is read as it is. -/
theorem readFixedText_of_valid {max : Nat} {t : Text} (h : validText max t = true) : readFixedText t = .value t := by
  simp only [validText, Bool.and_eq_true, decide_eq_true_eq] at h
  have hne : t.isEmpty = false := by cases t with | nil => simp at h | cons => rfl
  unfold readFixedText
  rw [padOf_textChars h.2, fieldChars_of_textChars h.2]
  simp [hne, h.2]

/-- A text of the form R186 gives is taken. -/
theorem takeText_of_valid {max : Nat} {t : Text} (h : validText max t = true) : takeText max t = some t := by
  unfold takeText; rw [readFixedText_of_valid h]
  simp only [validText, Bool.and_eq_true, decide_eq_true_eq] at h
  simp [h.1.2]

/-- What is taken has the form R186 gives. -/
theorem validText_of_take {max : Nat} {f t : Text} (h : takeText max f = some t) : validText max t = true := by
  unfold takeText readFixedText at h
  split at h
  · rename_i t' e
    split at e
    · cases e
    · split at e
      · cases e
      · rename_i hc
        cases e
        split at h
        · cases h
          rename_i hl
          simp only [Bool.or_eq_true, Bool.not_eq_true', not_or, Bool.not_eq_true, Bool.not_eq_false] at hc
          have hne : fieldChars f ≠ [] := by simpa using hc.1
          simp [validText, hc.2, hl]
          exact List.length_pos_of_ne_nil hne
        · cases h
  · cases h
  · cases h

/-- A request's owner gets a text of its form as it is. -/
theorem withText_of_valid {max : Nat} {t : Text} {own : Text → Owner} (h : validText max t = true) : withText t own = own t := by
  unfold withText; rw [readFixedText_of_valid h]

/-! ### Kind codes -/

/-- What is drawn, and what is left of the items, are the items together. -/
theorem draw_append_perm {α : Type} (choice : Nat → Nat) (n : Nat) (xs : List α) (h : n ≤ xs.length) :
    (draw choice n xs).length = n ∧ ∃ rest, (draw choice n xs ++ rest).Perm xs := by
  induction n generalizing xs with
  | zero => exact ⟨rfl, xs, by simp [draw]⟩
  | succ n ih =>
    have hl : choice n % xs.length < xs.length := Nat.mod_lt _ (by omega)
    obtain ⟨hlen, rest, hp⟩ := ih (xs.eraseIdx (choice n % xs.length)) (by rw [List.length_eraseIdx_of_lt hl]; omega)
    refine ⟨by simp [draw, List.getElem?_eq_getElem hl, hlen], rest, ?_⟩
    simp only [draw, List.getElem?_eq_getElem hl, Option.toList_some, List.cons_append, List.nil_append]
    exact (hp.cons _).trans (List.getElem_cons_eraseIdx_perm hl)

/-- What is drawn stands among the items. -/
theorem draw_subset {α : Type} (choice : Nat → Nat) (n : Nat) (xs : List α) (h : n ≤ xs.length) : ∀ b ∈ draw choice n xs, b ∈ xs := by
  obtain ⟨-, rest, hp⟩ := draw_append_perm choice n xs h
  exact fun b hb => hp.subset (List.mem_append_left _ hb)

/-- Items drawn from different ones are different. -/
theorem draw_nodup {α : Type} (choice : Nat → Nat) (n : Nat) (xs : List α) (h : n ≤ xs.length) (hn : xs.Nodup) :
    (draw choice n xs).Nodup := by
  obtain ⟨-, rest, hp⟩ := draw_append_perm choice n xs h
  exact (List.nodup_append.mp (hp.nodup_iff.mpr hn)).1

theorem draw_length {α : Type} (choice : Nat → Nat) (n : Nat) (xs : List α) (h : n ≤ xs.length) : (draw choice n xs).length = n :=
  (draw_append_perm choice n xs h).1

/-- All items drawn are the items in some order. -/
theorem draw_perm {α : Type} (choice : Nat → Nat) (xs : List α) : (draw choice xs.length xs).Perm xs := by
  obtain ⟨hl, rest, hp⟩ := draw_append_perm choice xs.length xs le_rfl
  have : rest = [] := by have := hp.length_eq; simp [hl] at this; exact this
  simpa [this] using hp

/-- The codes left on the host line: 252 different ones. -/
theorem hostCodes_left : (codesBut [0x80, 0x30, 0x92, 0x9D]).Nodup ∧ (codesBut [0x80, 0x30, 0x92, 0x9D]).length = 252 := by
  decide +kernel

/-- As many codes are drawn on the host line as it has unlisted kinds. -/
theorem hostCodes_drawn : (draw Config.hostKindChoice 61 (codesBut [0x80, 0x30, 0x92, 0x9D])).length = 61 :=
  draw_length _ _ _ (by rw [hostCodes_left.2]; omega)

/-- The codes of the host line's unlisted kinds are different. -/
theorem hostCode_inj {m n : Nat} (hm : m < 61) (hn : n < 61) (h : hostCode m = hostCode n) : m = n := by
  have hnd : (draw Config.hostKindChoice 61 (codesBut [0x80, 0x30, 0x92, 0x9D])).Nodup :=
    draw_nodup _ _ _ (by rw [hostCodes_left.2]; omega) hostCodes_left.1
  unfold hostCode at h
  rw [List.getD_eq_getElem _ _ (by rwa [hostCodes_drawn]), List.getD_eq_getElem _ _ (by rwa [hostCodes_drawn])] at h
  exact (List.Nodup.getElem_inj_iff hnd).mp h

/-- No unlisted kind of the host line has a listed code. -/
theorem hostCode_listed {n : Nat} (hn : n < 61) : hostCode n ∉ [(0x80 : Byte), 0x30, 0x92, 0x9D] := by
  have hlen : n < (draw Config.hostKindChoice 61 (codesBut [0x80, 0x30, 0x92, 0x9D])).length := by rwa [hostCodes_drawn]
  unfold hostCode
  rw [List.getD_eq_getElem _ _ hlen]
  have := draw_subset Config.hostKindChoice 61 (codesBut [0x80, 0x30, 0x92, 0x9D])
    (by rw [hostCodes_left.2]; omega) _ (List.getElem_mem hlen)
  have h2 := (List.mem_filter.mp this).2
  intro hc
  rw [List.contains_iff_mem.mpr hc] at h2
  cases h2

end Sys2Proof.Machine
end

