-- ==== Sys2Proof/Laws/HostLink.lean ====
section
/-! SUPPORT. How a request is taken, said once: what a proved frame leaves in each of the three cases of R176. -/

namespace Sys2Proof.Machine

open Sys2Proof

/-- The state an owner is handed: the receiver in step, nothing else changed (R173). -/
def State.proved (s : State) : State := modHost (fun h => { h with rx := Receiver.between }) s

@[simp] theorem proved_host (s : State) : s.proved.host = { s.host with rx := Receiver.between } := rfl
@[simp] theorem proved_answered (s : State) (t : BitVec 16) (k : RequestKind) (a : Answer) :
    s.proved.answered t k a = s.answered t k a := rfl

/-- No report holds its place, so none leaves it (R179). -/
theorem leave_free {h : HostLink} (e : h.headHeld = false) (sent : Bool) : h.leave sent = h := by
  unfold HostLink.leave
  rw [e]
  cases h
  simp_all

/-- The fields of the Host Link Unit that the report queue's head leaving does not touch (R179). -/
@[simp] theorem leave_speed (h : HostLink) (b : Bool) : (h.leave b).speed = h.speed := rfl
@[simp] theorem leave_rx (h : HostLink) (b : Bool) : (h.leave b).rx = h.rx := rfl
@[simp] theorem leave_replies (h : HostLink) (b : Bool) : (h.leave b).replies = h.replies := rfl
@[simp] theorem leave_lostReports (h : HostLink) (b : Bool) : (h.leave b).lostReports = h.lostReports := rfl
@[simp] theorem leave_lostRequests (h : HostLink) (b : Bool) : (h.leave b).lostRequests = h.lostRequests := rfl
@[simp] theorem leave_rxErrors (h : HostLink) (b : Bool) : (h.leave b).rxErrors = h.rxErrors := rfl
@[simp] theorem leave_tx (h : HostLink) (b : Bool) : (h.leave b).tx = h.tx := rfl
@[simp] theorem leave_headHeld (h : HostLink) (b : Bool) : (h.leave b).headHeld = (h.headHeld && !b) := rfl

/-- The reports after the head has left, or has not: one fewer, or the same (R179). -/
theorem leave_reports (h : HostLink) (b : Bool) :
    (h.leave b).reports = if h.headHeld && b then h.reports.tail else h.reports := rfl

/-- What the transmitter takes next (R178, R179): a reply, a report with the lost count, or nothing. -/
theorem nextHostFrame_cases (h : HostLink) :
    (h.replies ≠ [] ∧ nextHostFrame h = { h.leave true with tx := some .reply })
    ∨ (h.replies = [] ∧ ∃ r rs, (h.leave true).reports = r :: rs ∧
        nextHostFrame h = { h.leave true with lostReports := 0, tx := some (.report r h.lostReports), headHeld := true })
    ∨ (h.replies = [] ∧ (h.leave true).reports = [] ∧ nextHostFrame h = { h.leave true with tx := none }) := by
  unfold nextHostFrame
  dsimp only [leave_replies, leave_lostReports]
  split
  · next e => exact .inl ⟨by simp [e], rfl⟩
  · next e =>
    split
    · next r rs er => exact .inr (.inl ⟨e, r, rs, er, rfl⟩)
    · next er => exact .inr (.inr ⟨e, er, rfl⟩)

/-- The host line after an event takes a frame, or already has one (R178). -/
theorem wake_cases (h : HostLink) : h.wake = h ∧ h.tx ≠ none ∨ h.wake = nextHostFrame h ∧ h.tx = none := by
  unfold HostLink.wake
  cases e : h.tx with
  | none => exact .inr ⟨rfl, rfl⟩
  | some f => exact .inl ⟨rfl, by simp⟩

/-- Settling leaves the replies, the receiver and the two counts of requests and errors alone. -/
@[simp] theorem settleHost_replies (s : State) : (settleHost s).host.replies = s.host.replies := by
  change s.host.wake.replies = _
  rcases wake_cases s.host with ⟨e, -⟩ | ⟨e, -⟩
  · rw [e]
  · rw [e]
    rcases nextHostFrame_cases s.host with ⟨-, e⟩ | ⟨-, _, _, -, e⟩ | ⟨-, -, e⟩ <;> rw [e] <;> rfl

/-- A queued entry, then the end of the event (R176, R178). -/
theorem settleHost_queueReply (e : ReplyEntry) (s : State) (hr : s.host.rx = Receiver.between) :
    settleHost (queueReply e s) = s.replied e := by
  unfold State.replied
  rw [← hr]
  rfl

/-- A proved frame with fewer than 8 full replies waiting is answered by its owner (R175, R176). -/
theorem provedFrame_taken {tag : BitVec 16} {kind : ReplyKind} {own : Owner} {s u : State} {a : Answer}
    (h : fullReplies s.host.replies < 8) (ho : own s.proved = (u, a)) (hr : u.host.rx = Receiver.between) :
    settleHost (provedFrame tag kind own s) = u.replied (.full tag kind a) := by
  have h0 : fullReplies s.proved.host.replies < 8 := h
  have e : provedFrame tag kind own s = queueReply (.full tag kind a) u := by
    unfold provedFrame
    change (if fullReplies s.proved.host.replies < 8 then _ else _) = _
    rw [if_pos h0]
    change queueReply (.full tag kind (own s.proved).2) (own s.proved).1 = _
    rw [ho]
  rw [e, settleHost_queueReply _ _ hr]

/-- A request that is taken leaves what its owner leaves, answered (R174 to R177). -/
theorem takeRequest_taken {tag : BitVec 16} {k : RequestKind} {own : Owner} {s u : State} {a : Answer}
    (h : s.takes tag) (ho : own s.proved = (u, a)) (hr : u.host.rx = Receiver.between) :
    takeRequest tag k own s = u.answered tag k a :=
  provedFrame_taken h.2 (by simp only [if_neg h.1]; exact ho) hr

/-- A request that its owner refuses leaves the state answered and else as it was (R174). -/
theorem takeRequest_same {tag : BitVec 16} {k : RequestKind} {own : Owner} {s : State} {a : Answer}
    (h : s.takes tag) (ho : own s.proved = (s.proved, a)) : takeRequest tag k own s = s.answered tag k a :=
  (takeRequest_taken h ho rfl).trans (proved_answered s tag k a)

/-- A request with tag 0 is refused BAD_FIELD (R174). -/
theorem takeRequest_tagZero {k : RequestKind} {own : Owner} {s : State} (h : fullReplies s.host.replies < 8) :
    takeRequest 0 k own s = s.answered 0 k (refusedFor .badField) :=
  (provedFrame_taken (u := s.proved) (a := refusedFor .badField) (own := fun t => if (0 : BitVec 16) = 0 then refuse .badField t else own t)
    h rfl rfl).trans (proved_answered s 0 k _)

/-- With 8 full replies and room for an entry, a proved frame gets a busy entry and no block sees it (R176). -/
theorem provedFrame_busy {tag : BitVec 16} {kind : ReplyKind} {own : Owner} {s : State} (h : 8 ≤ fullReplies s.host.replies)
    (hl : s.host.replies.length < 16) : settleHost (provedFrame tag kind own s) = s.replied (.busy tag kind) := by
  have h0 : ¬ fullReplies s.proved.host.replies < 8 := by simpa using h
  have e : provedFrame tag kind own s = queueReply (.busy tag kind) s.proved := by
    unfold provedFrame
    change (if fullReplies s.proved.host.replies < 8 then _ else if s.proved.host.replies.length < 16 then _ else _) = _
    rw [if_neg h0, if_pos (by simpa using hl)]
    rfl
  rw [e, settleHost_queueReply _ _ rfl]
  rfl

/-- With 16 entries a proved frame is discarded and counted (R176). -/
theorem provedFrame_lost {tag : BitVec 16} {kind : ReplyKind} {own : Owner} {s : State} (h : 8 ≤ fullReplies s.host.replies)
    (hl : 16 ≤ s.host.replies.length) :
    provedFrame tag kind own s = { s with host := { s.host with
      rx := Receiver.between, lostRequests := satInc 255 s.host.lostRequests } } := by
  have h0 : ¬ fullReplies s.proved.host.replies < 8 := by simpa using h
  unfold provedFrame
  change (if fullReplies s.proved.host.replies < 8 then _ else if s.proved.host.replies.length < 16 then _ else _) = _
  rw [if_neg h0, if_neg (by simpa using hl)]
  rfl

/-- What a raised report leaves: the queue one longer, or the lost count one higher (R179). -/
theorem raise_cases (r : Report) (s : State) :
    (s.host.reports.length < 64 ∧
      raise r s = { s with host := { s.host with reports := s.host.reports ++ [⟨s.floorTime, r⟩] } }) ∨
    (64 ≤ s.host.reports.length ∧ raise r s = { s with host := { s.host with lostReports := satInc 255 s.host.lostReports } }) := by
  unfold raise
  by_cases h : s.host.reports.length < 64
  · exact .inl ⟨h, by simp [h]⟩
  · exact .inr ⟨by omega, by simp [h]⟩

@[simp] theorem raise_host_rx (r : Report) (s : State) : (raise r s).host.rx = s.host.rx := by unfold raise; split <;> rfl
@[simp] theorem raise_host_replies (r : Report) (s : State) : (raise r s).host.replies = s.host.replies := by
  unfold raise; split <;> rfl
@[simp] theorem raise_host_tx (r : Report) (s : State) : (raise r s).host.tx = s.host.tx := by unfold raise; split <;> rfl
@[simp] theorem raise_host_speed (r : Report) (s : State) : (raise r s).host.speed = s.host.speed := by unfold raise; split <;> rfl
@[simp] theorem raise_host_lostRequests (r : Report) (s : State) : (raise r s).host.lostRequests = s.host.lostRequests := by
  unfold raise; split <;> rfl
@[simp] theorem raise_host_rxErrors (r : Report) (s : State) : (raise r s).host.rxErrors = s.host.rxErrors := by
  unfold raise; split <;> rfl

end Sys2Proof.Machine
end

