-- ==== Sys2Proof/Laws/Kept.lean ====
section
/-! SUPPORT. What the shared operations can touch, said once: a property of states that survives the changes listed in `Kept` survives
every operation of the Lot Manager, the Tally and Limit Unit, the Cell Manager, the Image Loader, the Dispatcher and the Cell Ports.
No operation below touches the queue of commands, the catalog, the aging limit, the registration counter, the baselines, the tickets,
the ticket counter, floor time, the counter of free values, or anything of the Host Link Unit but its reports. -/

namespace Sys2Proof.Machine

open Sys2Proof

/-- A change of a port that keeps its queues within their bounds. -/
def PortKeeps (f : Port → Port) : Prop := ∀ p, p.bounded → (f p).bounded

/-- A change of a product that leaves its definition alone. -/
def ProductKeeps (f : Product → Product) : Prop := ∀ p, (f p).code = p.code ∧ (f p).steps = p.steps ∧ (f p).qaSample = p.qaSample

/-- A property that the changes of the operating records do not end. -/
structure Kept (P : State → Prop) : Prop where
  cells : ∀ s v, P s → P { s with cells := v }
  loads : ∀ s v, P s → P { s with loads := v }
  lots : ∀ s v, P s → P { s with lots := v }
  tallies : ∀ s v, P s → P { s with tallies := v }
  ships : ∀ s v, P s → P { s with ships := v }
  checkMarks : ∀ s v, P s → P { s with checkMarks := v }
  summary : ∀ s x m, P s → P (setSummary x m s)
  noSummaries : ∀ s (x : LotSlot), P s → P { s with summaries := s.summaries.set x.val (Vector.replicate 4 none) x.isLt }
  runGroups : ∀ s v, P s → P { s with runGroups := v }
  waiting : ∀ s v, P s → P { s with waiting := v }
  bufferWaiting : ∀ s v, P s → P { s with bufferWaiting := v }
  waitList : ∀ s v, P s → P { s with waitList := v }
  pointer : ∀ s v, P s → P { s with pointer := v }
  buffers : ∀ s v, P s → P { s with buffers := v }
  grantPointer : ∀ s v, P s → P { s with grantPointer := v }
  port : ∀ s c f, PortKeeps f → P s → P (modPort c f s)
  product : ∀ s i f, ProductKeeps f → P s → P (modProduct i f s)
  raise : ∀ s r, P s → P (raise r s)

/-- A round that keeps a property. -/
abbrev RoundKeeps (P : State → Prop) (rnd : Round) : Prop := ∀ s, P s → P (rnd s)

variable {P : State → Prop} {s : State} {rnd : Round}

/-- A property that each of some actions keeps is kept by all of them in turn. -/
theorem kept_foldl {α : Type} (f : State → α → State) (hf : ∀ t a, P t → P (f t a)) (l : List α) (h : P s) :
    P (l.foldl f s) := by
  induction l generalizing s with
  | nil => exact h
  | cons a l ih => exact ih (hf _ _ h)

/-- A property that both branches have. -/
theorem kept_ite {c : Prop} [Decidable c] {a b : State} (ha : P a) (hb : P b) : P (if c then a else b) := by
  split
  · exact ha
  · exact hb

/-! ### Changes of one record -/

theorem Kept.modCell (k : Kept P) (h : P s) {c f} : P (modCell c f s) := k.cells _ _ h
theorem Kept.modLoad (k : Kept P) (h : P s) {c f} : P (modLoad c f s) := k.loads _ _ h
theorem Kept.setLot (k : Kept P) (h : P s) {x l} : P (s.setLot x l) := k.lots _ _ h
theorem Kept.modLot (k : Kept P) (h : P s) {x f} : P (modLot x f s) := k.lots _ _ h
theorem Kept.modPortion (k : Kept P) (h : P s) {x f} : P (modPortion x f s) := k.lots _ _ h
theorem Kept.modTally (k : Kept P) (h : P s) {x f} : P (modTally x f s) := k.tallies _ _ h
theorem Kept.setShip (k : Kept P) (h : P s) {x v} : P (s.setShip x v) := k.ships _ _ h
theorem Kept.modShip (k : Kept P) (h : P s) {x f} : P (modShip x f s) := k.ships _ _ h
theorem Kept.setCheckMark (k : Kept P) (h : P s) {x b} : P (setCheckMark x b s) := k.checkMarks _ _ h
theorem Kept.setSummary (k : Kept P) (h : P s) {x m} : P (setSummary x m s) := k.summary _ _ _ h
theorem Kept.setRunGroups (k : Kept P) (h : P s) {c n} : P (setRunGroups c n s) := k.runGroups _ _ h
theorem Kept.setWaiting (k : Kept P) (h : P s) {c b} : P (setWaiting c b s) := k.waiting _ _ h
theorem Kept.setBufferWaiting (k : Kept P) (h : P s) {c b} : P (setBufferWaiting c b s) := k.bufferWaiting _ _ h

/-! ### Changes of a port -/

theorem portKeeps_idle {f : Port → Port} (h : ∀ p, (f p).txList = p.txList ∧ (f p).queue = p.queue ∧ (f p).group = p.group
    ∧ (f p).groupCount = p.groupCount) : PortKeeps f := by
  intro p hp; obtain ⟨a, b, c, d⟩ := h p
  unfold Port.bounded at hp ⊢; rw [a, b, c, d]; exact hp

theorem portKeeps_dropGroup : PortKeeps Port.dropGroup := by
  intro p hp; simp only [Port.bounded, Port.dropGroup] at hp ⊢; simp; omega
theorem portKeeps_clearIntake : PortKeeps Port.clearIntake := by
  intro p hp; simp only [Port.bounded, Port.clearIntake] at hp ⊢; simp; omega
theorem portKeeps_linkLost : PortKeeps Port.linkLost := by
  intro p hp; simp [Port.bounded, Port.linkLost, Port.clearIntake]
theorem portKeeps_configure : PortKeeps Port.configure := by
  intro p hp; simp [Port.bounded, Port.configure, Port.clearIntake]
theorem portKeeps_openRun : PortKeeps Port.openRun := portKeeps_idle fun _ => ⟨rfl, rfl, rfl, rfl⟩
theorem portKeeps_frameSent : PortKeeps Port.frameSent := by
  intro p hp; simp only [Port.bounded, Port.frameSent] at hp ⊢; split
  · exact hp
  · simp; omega
theorem portKeeps_joinGroup (r : IntakeRecord) : PortKeeps (joinGroup r) := by
  intro p hp; simp only [Port.bounded, joinGroup] at hp ⊢; split
  · simp; omega
  · omega
theorem markTail_length (m : RecordMark) (q : List IntakeRecord) : (markTail m q).length = q.length := by
  induction q with
  | nil => rfl
  | cons r q ih => cases q with
    | nil => simp [markTail]
    | cons r' q => simp [markTail] at ih ⊢; exact ih
theorem portKeeps_jamPort : PortKeeps jamPort := by
  intro p hp; simp only [Port.bounded, jamPort] at hp ⊢; split
  · simp [Port.dropGroup]; omega
  · simp [markTail_length]; omega

/-! ### Reports, frames and cell states -/

theorem Kept.sendFrame (k : Kept P) (h : P s) {c f} : P (sendFrame c f s) := by
  unfold Machine.sendFrame
  split
  · split
    · exact k.port _ _ _ (portKeeps_idle fun _ => ⟨rfl, rfl, rfl, rfl⟩) h
    · split
      · rename_i hl
        show P { s with ports := s.ports.set c.val _ c.isLt }
        have hk : PortKeeps (fun p => if p.txList.length < 32 then { p with txList := p.txList ++ [f] } else p) := by
          intro p hp
          simp only [Port.bounded] at hp ⊢
          split
          · simp; omega
          · omega
        have := k.port s c _ hk h
        unfold Machine.modPort at this
        simp only [hl, if_true] at this
        exact this
      · exact k.raise _ _ h
  · exact h

theorem Kept.sendAbort (k : Kept P) (h : P s) {c} : P (sendAbort c s) := k.sendFrame (k.port _ _ _ portKeeps_clearIntake h)

theorem Kept.setCellState (k : Kept P) (h : P s) {c st} : P (setCellState c st s) := by
  unfold Machine.setCellState; split
  · exact h
  · exact k.raise _ _ (k.modCell h)

theorem Kept.startPurge (k : Kept P) (h : P s) {c} : P (startPurge c s) := k.setCellState (k.modCell (k.sendFrame h))

theorem Kept.updateWaiting (k : Kept P) (hr : RoundKeeps P rnd) (h : P s) {c} : P (updateWaiting rnd c s) := by
  unfold Machine.updateWaiting; split
  · split
    · exact h
    · exact hr _ (k.setWaiting h)
  · exact k.setWaiting h

theorem Kept.latch (k : Kept P) (h : P s) {c e} : P (latch c e s) := by
  unfold Machine.latch; split
  · exact h
  · exact k.raise _ _ (k.port _ _ _ (portKeeps_idle fun _ => ⟨rfl, rfl, rfl, rfl⟩) h)

theorem Kept.latchStatus (k : Kept P) (h : P s) {c r} : P (latchStatus c r s) := by
  unfold Machine.latchStatus; split <;> first | exact h | exact k.latch h

/-! ### The wait list -/

theorem Kept.entryNeeded (k : Kept P) (hr : RoundKeeps P rnd) (h : P s) {x} : P (entryNeeded rnd x s) := by
  unfold Machine.entryNeeded; split
  · exact h
  · split
    · exact h
    · exact hr _ (k.waitList _ _ h)

theorem Kept.removeEntry (k : Kept P) (h : P s) {x} : P (removeEntry x s) := k.waitList _ _ h

theorem Kept.priorityEvent (k : Kept P) (hr : RoundKeeps P rnd) (h : P s) {x n} : P (priorityEvent rnd x n s) := by
  unfold Machine.priorityEvent; split
  · exact h
  · split
    · exact hr _ h
    · exact hr _ (k.waitList _ _ h)

/-! ### Lots, shipments and holds -/

theorem Kept.lotChanged (k : Kept P) (h : P s) {x} : P (lotChanged x s) := by
  unfold Machine.lotChanged; split
  · exact h
  · exact k.modShip h
theorem Kept.memberRemoved (k : Kept P) (h : P s) {x} : P (memberRemoved x s) := by
  unfold Machine.memberRemoved; split
  · exact h
  · exact k.modShip h
theorem Kept.setLotState (k : Kept P) (h : P s) {x st} : P (setLotState x st s) := by
  unfold Machine.setLotState; split
  · exact h
  · split
    · exact h
    · exact k.lotChanged (k.raise _ _ (k.setLot h))
theorem Kept.refreshLot (k : Kept P) (h : P s) {x} : P (refreshLot x s) := by
  unfold Machine.refreshLot; split
  · exact h
  · split
    · exact h
    · exact k.setLotState h
theorem productKeeps_live {g : Nat → Nat} : ProductKeeps fun p => { p with live := g p.live } := fun _ => ⟨rfl, rfl, rfl⟩
theorem Kept.dropLive (k : Kept P) (h : P s) {i} : P (dropLive i s) := k.product _ _ _ (productKeeps_live (g := fun n => n - 1)) h
theorem Kept.addLive (k : Kept P) (h : P s) {i} : P (addLive i s) := k.product _ _ _ (productKeeps_live (g := fun n => n + 1)) h
theorem Kept.addPause (k : Kept P) (h : P s) {c r} : P (addPause c r s) := by
  unfold Machine.addPause
  dsimp only
  refine k.updateWaiting (fun _ h => h) ?_
  split
  · split
    · exact k.setCellState (k.sendFrame (k.modCell h))
    · exact k.setCellState (k.modCell (k.sendFrame (k.modCell h)))
    all_goals exact k.modCell h
  · exact k.modCell h
theorem Kept.holdAdded (k : Kept P) (h : P s) {c ref} : P (holdAdded c ref s) := by
  unfold Machine.holdAdded; split
  · exact k.addPause h
  · exact h
theorem Kept.emptyPending (k : Kept P) (h : P s) {c} : P (emptyPending c s) := by
  unfold Machine.emptyPending; split
  · exact h
  · exact k.modPortion (k.modCell h)
theorem Kept.returnPending (k : Kept P) (hr : RoundKeeps P rnd) (h : P s) {c} : P (returnPending rnd c s) := by
  unfold Machine.returnPending; split
  · exact h
  · exact k.entryNeeded hr (k.refreshLot (k.emptyPending h))
theorem Kept.firstHold (k : Kept P) (hr : RoundKeeps P rnd) (h : P s) {x} : P (firstHold rnd x s) := by
  unfold Machine.firstHold; split
  · exact h
  · dsimp only
    apply k.refreshLot
    apply kept_foldl (P := P)
    · intro t a ht; exact k.updateWaiting hr (k.entryNeeded hr (k.emptyPending ht))
    · apply kept_foldl (P := P)
      · intro t a ht; exact k.holdAdded ht
      · exact h
theorem Kept.checkNote (k : Kept P) (h : P s) {x r p} : P (checkNote x r p s) := by
  unfold Machine.checkNote; split
  · exact k.setCheckMark h
  · exact h
theorem Kept.mergeHold (k : Kept P) (hr : RoundKeeps P rnd) (h : P s) {x r n d} : P (mergeHold rnd x r n d s) := by
  unfold Machine.mergeHold; split
  · exact h
  · split
    · exact h
    · split
      · exact k.lotChanged (k.checkNote (k.setLot h))
      · dsimp only
        split
        · exact k.firstHold hr (k.lotChanged (k.raise _ _ (k.checkNote (k.setLot h))))
        · exact k.lotChanged (k.raise _ _ (k.checkNote (k.setLot h)))

/-! ### Evaluations and the lot step record -/

theorem Kept.conditionHolds (k : Kept P) (hr : RoundKeeps P rnd) (h : P s) {e c m f b} :
    P (conditionHolds rnd e c m f b s) := by
  unfold Machine.conditionHolds; split
  · exact h
  · dsimp only
    split
    · split
      · exact k.mergeHold hr (k.raise _ _ (k.modTally h))
      · exact k.raise _ _ (k.modTally h)
    · split
      · exact k.mergeHold hr h
      · exact h
theorem Kept.yieldCheck (k : Kept P) (hr : RoundKeeps P rnd) (h : P s) {e m} : P (yieldCheck rnd e m s) := by
  unfold Machine.yieldCheck; dsimp only; split
  · exact k.conditionHolds hr h
  · exact h
theorem Kept.binCheck (k : Kept P) (hr : RoundKeeps P rnd) (h : P s) {e i n m} : P (binCheck rnd e i n m s) := by
  unfold Machine.binCheck; dsimp only; split
  · exact k.conditionHolds hr h
  · exact h
theorem Kept.evaluate (k : Kept P) (hr : RoundKeeps P rnd) (h : P s) {x n b} : P (evaluate rnd x n b s) := by
  unfold Machine.evaluate; split
  · exact h
  · split
    · exact h
    · split
      · exact h
      · dsimp only
        split
        · exact h
        · split
          · exact k.modLot (k.modTally h)
          · exact h
        · apply kept_foldl (P := P)
          · intro t a ht; exact k.binCheck hr ht
          · exact k.yieldCheck hr h
theorem Kept.stepLeft (k : Kept P) (h : P s) {x} : P (stepLeft x s) := k.setCheckMark (k.modTally h)
theorem Kept.lotRemoved (k : Kept P) (h : P s) {x} : P (lotRemoved x s) := k.stepLeft (k.noSummaries _ _ h)
theorem Kept.waiveChecks (k : Kept P) (h : P s) {x l} : P (waiveChecks x l s) := k.modTally h
theorem Kept.unmaskLot (k : Kept P) (hr : RoundKeeps P rnd) (h : P s) {i n c x} : P (unmaskLot rnd i n c s x) := by
  unfold Machine.unmaskLot; split
  · exact h
  · split
    · split
      · split
        · exact h
        · exact k.mergeHold hr h
      · exact h
    · exact h
theorem Kept.unmaskEvent (k : Kept P) (hr : RoundKeeps P rnd) (h : P s) {i n c} : P (unmaskEvent rnd i n c s) := by
  unfold Machine.unmaskEvent
  generalize List.finRange 128 = xs
  exact kept_foldl (P := P) _ (fun _ _ h => k.unmaskLot hr h) _ h
theorem Kept.reviewFlag (k : Kept P) (hr : RoundKeeps P rnd) (h : P s) {x l m c} : P (reviewFlag rnd x l m s c) := by
  unfold Machine.reviewFlag; split
  · exact h
  · split
    · exact k.mergeHold hr h
    · exact h
theorem Kept.reviewImport (k : Kept P) (hr : RoundKeeps P rnd) (h : P s) {x l m} : P (reviewImport rnd x l m s) := by
  unfold Machine.reviewImport
  exact kept_foldl (P := P) _ (fun _ _ h => k.reviewFlag hr h) _ h
theorem Kept.summaryEvent (k : Kept P) (h : P s) {x p} : P (summaryEvent x p s) := by
  unfold Machine.summaryEvent; split
  · exact h
  · split
    · split
      · exact h
      · exact k.setSummary h
    · split
      · exact h
      · exact k.setSummary h

/-! ### Passes -/

theorem Kept.queuePass (k : Kept P) (hr : RoundKeeps P rnd) (h : P s) {x p q} : P (queuePass rnd x p q s) := by
  unfold Machine.queuePass; dsimp only
  exact k.entryNeeded hr (k.refreshLot (k.modLot h))
theorem Kept.enterNoYield (k : Kept P) (h : P s) {x i} : P (enterNoYield x i s) :=
  k.memberRemoved (k.dropLive (k.removeEntry (k.setLotState h)))
theorem Kept.proceed (k : Kept P) (hr : RoundKeeps P rnd) (h : P s) {x} : P (proceed rnd x s) := by
  unfold Machine.proceed; split
  · exact h
  · split
    · exact h
    · dsimp only
      split
      · exact k.enterNoYield (k.stepLeft h)
      · split
        · exact k.queuePass hr (k.modLot (k.stepLeft h))
        · split <;> exact k.refreshLot (k.modLot (k.stepLeft h))
theorem Kept.completePass (k : Kept P) (hr : RoundKeeps P rnd) (h : P s) {x n} : P (completePass rnd x n s) := by
  unfold Machine.completePass; split
  · exact h
  · rename_i l _
    dsimp only
    have h1 : P (if l.pass = .first then Machine.evaluate rnd x n true s else s) := by
      split
      · exact k.evaluate hr h
      · exact h
    have h3 : ∀ t, P t → P (if 0 < sumOf (·.l) (l.passPortions l.pass) then
        Machine.mergeHold rnd x .count (firstLoss (l.passPortions l.pass)) (sumOf (·.l) (l.passPortions l.pass)) t else t) := by
      intro t ht; split
      · exact k.mergeHold hr ht
      · exact ht
    have h4 := h3 _ (k.summaryEvent (x := x) (p := l.pass) h1)
    split
    · split
      · exact k.proceed hr (k.modLot (k.raise _ _ h4))
      · exact k.refreshLot (k.modLot (k.raise _ _ h4))
    · exact k.modLot (k.raise _ _ h4)
theorem Kept.enterScrapped (k : Kept P) (h : P s) {x i} : P (enterScrapped x i s) := k.dropLive (k.setLotState h)
theorem Kept.scrapCheck (k : Kept P) (h : P s) {x} : P (scrapCheck x s) := by
  unfold Machine.scrapCheck; split
  · exact h
  · split
    · exact k.enterScrapped h
    · exact h
theorem Kept.leaveCell (k : Kept P) (hr : RoundKeeps P rnd) (h : P s) {b c} : P (leaveCell rnd b c s) := by
  unfold Machine.leaveCell; split
  · exact h
  · dsimp only
    split
    · exact k.modCell h
    · split
      · exact k.modCell h
      · split
        · split
          · exact k.scrapCheck (k.modPortion (k.modCell h))
          · exact k.modPortion (k.modCell h)
        · split
          · exact k.entryNeeded hr (k.refreshLot (k.modPortion (k.modCell h)))
          · split
            · split
              · exact k.completePass hr (k.modPortion (k.modCell h))
              · exact k.refreshLot (k.modPortion (k.modCell h))
            · exact k.modPortion (k.modCell h)
theorem Kept.purgePortion (k : Kept P) (hr : RoundKeeps P rnd) (h : P s) {c f} : P (purgePortion rnd c f s) := by
  unfold Machine.purgePortion; split
  · exact h
  · split
    · exact k.leaveCell hr h
    · dsimp only
      refine k.leaveCell hr ?_
      split
      · exact k.mergeHold hr (k.modPortion h)
      · exact k.modPortion h
theorem Kept.losePortion (k : Kept P) (hr : RoundKeeps P rnd) (h : P s) {b c} : P (losePortion rnd b c s) := by
  unfold Machine.losePortion; split
  · exact h
  · exact k.leaveCell hr (k.modPortion h)

/-! ### The Image Loader -/

theorem Kept.issueWant (k : Kept P) (h : P s) {c} : P (issueWant c s) := by
  unfold Machine.issueWant; dsimp only
  exact k.modLoad (k.raise _ _ (k.modLoad h))
theorem Kept.turnBuffer (k : Kept P) (h : P s) {is b} : P (turnBuffer is b s) := by
  unfold Machine.turnBuffer; split
  · exact k.buffers _ _ h
  · exact h
theorem Kept.freeLoad (k : Kept P) (h : P s) {c} : P (freeLoad c s) := k.buffers _ _ h
theorem Kept.grantBuffer (k : Kept P) (h : P s) {c} : P (grantBuffer c s) := by
  have h1 : P { reserveBuffer c (s.load c).nextWant s with grantPointer := c } := k.grantPointer _ c (k.turnBuffer h)
  unfold Machine.grantBuffer; dsimp only; split
  · exact k.issueWant h1
  · exact k.setBufferWaiting (k.issueWant h1)
theorem Kept.distribute (k : Kept P) (n : Nat) (h : P s) : P (distribute n s) := by
  induction n generalizing s with
  | zero => exact h
  | succ n ih =>
    unfold Machine.distribute; split
    · exact h
    · split
      · exact h
      · exact ih (k.grantBuffer h)
theorem Kept.grantFree (k : Kept P) (h : P s) : P (grantFree s) := k.distribute _ h
theorem Kept.askBuffer (k : Kept P) (h : P s) {c} : P (askBuffer c s) := by
  unfold Machine.askBuffer; split
  · exact k.grantFree (k.setBufferWaiting h)
  · exact h
theorem Kept.failLoad (k : Kept P) (h : P s) {c e} : P (failLoad c e s) := by
  unfold Machine.failLoad; dsimp only; split
  · exact k.raise _ _ (k.grantFree (k.setBufferWaiting (k.freeLoad (k.sendFrame (k.modLoad h)))))
  · exact h
theorem Kept.startLoad (k : Kept P) (h : P s) {c p} : P (startLoad c p s).1 := by
  unfold Machine.startLoad; split
  · split
    · exact k.askBuffer (k.modLoad h)
    · exact k.raise _ _ (k.modLoad h)
  · exact k.raise _ _ (k.modLoad h)
theorem Kept.relayBlock (k : Kept P) (h : P s) {c o d} : P (relayBlock c o d s) := by
  unfold Machine.relayBlock; dsimp only
  exact k.modLoad (k.modLoad (k.sendFrame (k.modLoad (k.turnBuffer h))))
theorem Kept.ackBlock (k : Kept P) (h : P s) {c o} : P (ackBlock c o s) := by
  unfold Machine.ackBlock
  refine kept_ite (P := P) ?_ h
  have h1 : P (Machine.modLoad c (fun d => { d with inFlight := d.inFlight.erase o }) (freeBlock c o s)) :=
    k.modLoad (k.turnBuffer h)
  have h3 : P _ := k.grantFree (kept_ite (P := P) (c := ((Machine.modLoad c (fun d => { d with inFlight := d.inFlight.erase o })
    (freeBlock c o s)).load c).needs = true) (k.setBufferWaiting (c := c) (b := true) h1) h1)
  exact kept_ite (P := P) (k.modLoad (k.sendFrame h3)) h3

/-! ### The Cell Manager -/

theorem Kept.loadFailed (k : Kept P) (hr : RoundKeeps P rnd) (h : P s) {c e} : P (loadFailed rnd c e s) := by
  unfold Machine.loadFailed
  refine kept_ite (P := P) (k.updateWaiting hr (kept_ite (P := P) ?_ ?_)) h
  · exact k.setCellState (k.modCell (k.modCell (k.leaveCell hr (k.modCell h))))
  · exact k.setCellState (k.modCell (k.modCell (k.leaveCell hr (k.modCell h))))
theorem Kept.endLoad (k : Kept P) (hr : RoundKeeps P rnd) (h : P s) {c e} : P (endLoad rnd c e s) := by
  unfold Machine.endLoad; split
  · exact k.loadFailed hr (k.failLoad h)
  · exact h
theorem Kept.abortLoad (k : Kept P) (h : P s) {c} : P (abortLoad c s) := by
  unfold Machine.abortLoad
  exact kept_ite (P := P) (k.modCell (k.failLoad h)) h
theorem Kept.enterSoaking (k : Kept P) (h : P s) {c} : P (enterSoaking c s) := by
  unfold Machine.enterSoaking; split
  · exact h
  · exact k.setCellState (k.modCell (k.sendFrame h))
theorem Kept.startRun (k : Kept P) (hr : RoundKeeps P rnd) (h : P s) {c} : P (startRun rnd c s) := by
  unfold Machine.startRun; split
  · exact h
  · exact k.updateWaiting hr (k.setCellState (k.setRunGroups (k.modCell (k.sendFrame
      (k.port _ _ _ portKeeps_openRun (k.modPortion h))))))
theorem Kept.dwellEnds (k : Kept P) (hr : RoundKeeps P rnd) (h : P s) {c} : P (dwellEnds rnd c s) := by
  unfold Machine.dwellEnds; split
  · exact k.updateWaiting hr (k.setCellState (k.modCell (k.sendFrame h)))
  · exact k.startRun hr h
theorem Kept.setupFromPause (k : Kept P) (hr : RoundKeeps P rnd) (h : P s) {c} : P (setupFromPause rnd c s) := by
  unfold Machine.setupFromPause; split
  · exact h
  · split
    · exact k.setCellState h
    · split
      · exact k.enterSoaking h
      · dsimp only
        split
        · exact k.startLoad (k.setCellState h)
        · exact k.loadFailed hr (k.startLoad (k.setCellState h))
theorem Kept.setupCheck (k : Kept P) (hr : RoundKeeps P rnd) (h : P s) {c} : P (setupCheck rnd c s) := by
  unfold Machine.setupCheck; split
  · exact h
  · split
    · exact k.setupFromPause hr h
    · exact k.raise _ _ (k.setCellState h)
theorem Kept.loadGood (k : Kept P) (hr : RoundKeeps P rnd) (h : P s) {c} : P (loadGood rnd c s) := by
  unfold Machine.loadGood; split
  · exact k.setupCheck hr (k.modCell h)
  · exact h
theorem Kept.resumeCell (k : Kept P) (hr : RoundKeeps P rnd) (h : P s) {c} : P (resumeCell rnd c s) := by
  unfold Machine.resumeCell; dsimp only; split
  · split
    · exact k.setupCheck hr h
    · split
      · exact k.enterSoaking h
      · exact k.updateWaiting hr (k.setCellState (k.sendFrame h))
  · exact k.updateWaiting hr h
  all_goals exact h
theorem Kept.removePause (k : Kept P) (hr : RoundKeeps P rnd) (h : P s) {c r} : P (removePause rnd c r s) := by
  unfold Machine.removePause; split
  · dsimp only
    split
    · exact k.resumeCell hr (k.modCell h)
    · exact k.modCell h
  · exact h
theorem Kept.holdRemoved (k : Kept P) (hr : RoundKeeps P rnd) (h : P s) {c ref} : P (holdRemoved rnd c ref s) := by
  unfold Machine.holdRemoved; split
  · exact k.removePause hr h
  · exact h
theorem Kept.drain (k : Kept P) (hr : RoundKeeps P rnd) (h : P s) {c} : P (drain rnd c s) := by
  unfold Machine.drain; dsimp only
  exact k.updateWaiting hr (k.setCellState (k.modCell (k.returnPending hr (k.sendFrame h))))
theorem Kept.siteLimit (k : Kept P) (hr : RoundKeeps P rnd) (h : P s) {c n} : P (siteLimit rnd c n s) := by
  unfold Machine.siteLimit; split
  · exact h
  · split
    · exact h
    · dsimp only
      split
      · exact k.drain hr (k.raise _ _ (k.modCell (k.sendFrame h)))
      · exact k.raise _ _ (k.modCell (k.sendFrame h))
theorem Kept.setDue (k : Kept P) (hr : RoundKeeps P rnd) (h : P s) {c b} : P (setDue rnd c b s) := by
  unfold Machine.setDue; dsimp only
  refine k.updateWaiting hr ?_
  split
  · exact k.returnPending hr (k.raise _ _ (k.modCell h))
  · exact k.modCell h
theorem Kept.touchdown (k : Kept P) (hr : RoundKeeps P rnd) (h : P s) {c} : P (touchdown rnd c s) := by
  unfold Machine.touchdown; dsimp only; split
  · exact k.setDue hr (k.modCell h)
  · exact k.modCell h
theorem Kept.pendingMove (k : Kept P) (hr : RoundKeeps P rnd) (h : P s) {c} : P (pendingMove rnd c s) := by
  unfold Machine.pendingMove; split
  · exact h
  · split
    · exact k.enterSoaking (k.refreshLot (k.modPortion (k.modCell h)))
    · exact k.returnPending hr h
theorem Kept.purgeDone (k : Kept P) (hr : RoundKeeps P rnd) (h : P s) {c f} : P (purgeDone rnd c f s) := by
  unfold Machine.purgeDone; dsimp only
  have h2 : ∀ g, P (Machine.modCell c g (Machine.purgePortion rnd c f (Machine.modCell c (fun x => { x with purgeTimer := none }) s))) :=
    fun _ => k.modCell (k.purgePortion hr (k.modCell h))
  split
  · exact k.updateWaiting hr (k.setCellState (k.modCell (h2 _)))
  · exact k.updateWaiting hr (k.pendingMove hr (k.setCellState (h2 _)))
theorem Kept.purgeExpires (k : Kept P) (hr : RoundKeeps P rnd) (h : P s) {c} : P (purgeExpires rnd c s) := by
  unfold Machine.purgeExpires; dsimp only
  exact k.updateWaiting hr (k.setCellState (k.returnPending hr (k.modCell (k.losePortion hr (k.modCell h)))))
theorem Kept.soakExpires (k : Kept P) (hr : RoundKeeps P rnd) (h : P s) {c} : P (soakExpires rnd c s) := by
  unfold Machine.soakExpires; dsimp only
  have h0 : P (Machine.sendAbort c (Machine.modCell c (fun x => { x with soakTimer := none }) s)) := k.sendAbort (k.modCell h)
  split
  · exact k.updateWaiting hr (k.setCellState (k.returnPending hr (k.modCell (k.sendFrame h0))))
  · exact k.updateWaiting hr (k.setCellState (k.modCell (k.leaveCell hr h0)))
theorem Kept.linkLoss (k : Kept P) (hr : RoundKeeps P rnd) (h : P s) {c} : P (linkLoss rnd c s) := by
  unfold Machine.linkLoss
  have h1 : ∀ f, P (Machine.modPort c Port.linkLost (Machine.modCell c f s)) := fun _ => k.port _ _ _ portKeeps_linkLost (k.modCell h)
  have h2 := k.returnPending hr (c := c) (k.abortLoad (c := c) (h1 fun x => { x.stopTimers with linkUp := false, pause := x.pause.drop .jam }))
  have h3 := fun f => k.modCell (c := c) (f := f) (k.leaveCell hr (b := true) (c := c) h2)
  exact k.updateWaiting hr (kept_ite (P := P) (kept_ite (P := P) h2 (h3 _)) (k.setCellState (kept_ite (P := P) h2 (h3 _))))
theorem Kept.clearCell (k : Kept P) (hr : RoundKeeps P rnd) (h : P s) {b c} : P (clearCell rnd b c s) := by
  unfold Machine.clearCell
  have h3 := fun g => k.modCell (c := c) (f := g) (k.returnPending hr (c := c) (k.port _ c _ portKeeps_clearIntake (k.abortLoad (c := c)
    (k.modCell (c := c) (f := Cell.stopTimers) h))))
  have h4 := fun g => k.startPurge (c := c) (k.sendAbort (c := c) (h3 g))
  refine kept_ite (P := P) (k.updateWaiting hr (kept_ite (P := P) (h4 _) (k.modCell (k.leaveCell hr (h4 _))))) ?_
  exact kept_ite (P := P) (k.updateWaiting hr (k.modCell (k.losePortion hr (h3 _)))) (k.updateWaiting hr (h3 _))
theorem Kept.abortEvent (k : Kept P) (hr : RoundKeeps P rnd) (h : P s) {c ref} : P (abortEvent rnd c ref s) := by
  unfold Machine.abortEvent; split
  · exact k.clearCell hr h
  · exact h
theorem Kept.damagedGroup (k : Kept P) (h : P s) {c} : P (damagedGroup c s) := by
  unfold Machine.damagedGroup; split
  · exact h
  · exact k.modPortion h
theorem Kept.runEndHanded (k : Kept P) (hr : RoundKeeps P rnd) (h : P s) {c e} : P (runEndHanded rnd c e s) := by
  have h0 : P (Machine.modPort c (fun p => { p with heldRunEnd := none }) s) :=
    k.port _ _ _ (portKeeps_idle fun _ => ⟨rfl, rfl, rfl, rfl⟩) h
  have h1 := k.port _ c _ portKeeps_dropGroup h0
  unfold Machine.runEndHanded
  refine kept_ite (P := P) (k.updateWaiting hr (k.startPurge (k.modCell ?_))) h0
  have h2 := fun (b : Prop) (d : Decidable b) => kept_ite (P := P) (c := b) h1 (k.damagedGroup (c := c) h1)
  split
  · exact kept_ite (P := P) (k.mergeHold hr (h2 _ _)) (h2 _ _)
  · exact h2 _ _
/-! ### The Dispatcher -/

theorem Kept.placed (k : Kept P) (h : P s) {v c} : P { s with waitList := v, pointer := c } :=
  k.pointer { s with waitList := v } c (k.waitList s v h)
theorem Kept.place (k : Kept P) (hr : RoundKeeps P rnd) (h : P s) {c w p r} : P (place rnd c w p r s) := by
  have h3 : ∀ f g v, P { Machine.refreshLot w.lot (Machine.modPortion ⟨w.lot, p.number⟩ g
      (Machine.setWaiting c false (Machine.modCell c f s))) with waitList := v, pointer := c + 1 } := fun f g v =>
    k.placed (k.refreshLot (k.modPortion (k.setWaiting (k.modCell h))))
  unfold Machine.place
  refine kept_ite (P := P) (k.setupCheck hr (k.setCellState (kept_ite (P := P) (k.removeEntry (h3 _ _ _)) (h3 _ _ _)))) ?_
  exact kept_ite (P := P) (k.removeEntry (h3 _ _ _)) (h3 _ _ _)
theorem Kept.offer (k : Kept P) (hr : RoundKeeps P rnd) (h : P s) {c} : P (offer rnd c s) := by
  unfold Machine.offer; split
  · exact h
  · split
    · exact h
    · split
      · split
        · exact k.place hr h
        · exact h
      · exact h
theorem Kept.offerRoundWith (k : Kept P) (hr : RoundKeeps P rnd) (h : P s) : P (offerRoundWith rnd s) := by
  unfold Machine.offerRoundWith
  exact kept_foldl (P := P) _ (fun _ _ h => kept_ite (P := P) (k.offer hr h) h) _ h
/-- An offer round keeps what `Kept` says. -/
theorem Kept.offerRound (k : Kept P) : RoundKeeps P offerRound := fun _ h => k.offerRoundWith (fun _ h => h) h

/-! ### The Cell Ports -/

theorem Kept.countSite (k : Kept P) (hr : RoundKeeps P rnd) (h : P s) {c n r} : P (countSite rnd c n s r) := by
  unfold Machine.countSite; dsimp only; split
  · split
    · exact k.siteLimit hr (k.modCell h)
    · exact k.modCell h
  · exact h
theorem Kept.tallyReport (k : Kept P) (h : P s) {c x n t} : P (tallyReport c x n t s) := by
  unfold Machine.tallyReport; split
  · exact h
  · dsimp only
    split
    · exact k.raise _ _ h
    · exact h
theorem Kept.talliedGroup (k : Kept P) (hr : RoundKeeps P rnd) (h : P s) {c t rs} : P (talliedGroup rnd c t rs s) := by
  unfold Machine.talliedGroup
  split
  · exact h
  · rename_i ref l p st _
    have h2 := fun f g => k.modPortion (x := ref) (f := g) (k.modTally (x := ref.lot) (f := f) h)
    have h3 := fun f g q n => k.setRunGroups (c := c) (n := n) (k.modCell (c := c) (f := q) (h2 f g))
    have h5 := fun f g q n m => k.tallyReport (c := c) (x := ref.lot) (n := p.number) (t := t) (kept_foldl (P := P)
      (Machine.countSite rnd c m) (fun _ _ h => k.countSite hr h) rs (h3 f g q n))
    exact kept_ite (P := P) (k.evaluate hr (h5 _ _ _ _ _)) (h5 _ _ _ _ _)
theorem Kept.completeGroup (k : Kept P) (hr : RoundKeeps P rnd) (h : P s) {c b t rs} : P (completeGroup rnd c b t rs s) := by
  have ht : ∀ t, P t → P (Machine.touchdown rnd c t) := fun _ h => k.touchdown hr h
  have hg : ∀ u, P u → P (Machine.talliedGroup rnd c t rs u) := fun _ h => k.talliedGroup hr h
  unfold Machine.completeGroup
  split
  · exact ht _ h
  · split
    · exact ht _ h
    · split
      · exact hg _ (ht _ (k.port _ _ _ (portKeeps_idle fun _ => ⟨rfl, rfl, rfl, rfl⟩) h))
      · exact k.mergeHold hr (ht _ h)
theorem Kept.checkSequence (k : Kept P) (h : P s) {c e} : P (checkSequence c e s) := by
  have hp : ∀ t : State, P t → P (Machine.modPort c (fun p => { p with lastTouchdown := some e.touchdown }) t) := fun _ h =>
    k.port _ _ _ (portKeeps_idle fun _ => ⟨rfl, rfl, rfl, rfl⟩) h
  unfold Machine.checkSequence; dsimp only
  split
  · refine hp _ ?_
    split
    · exact h
    · split
      · exact h
      · exact k.latch h
  · refine hp _ ?_
    split
    · exact h
    · split
      · exact h
      · exact k.latch h
  all_goals exact h
theorem Kept.closeGroup (k : Kept P) (hr : RoundKeeps P rnd) (h : P s) {c e} : P (closeGroup rnd c e s) := by
  have h1 := k.port _ c _ portKeeps_dropGroup (k.checkSequence (c := c) (e := e) h)
  unfold Machine.closeGroup
  exact kept_ite (P := P) (k.completeGroup hr h1) (kept_ite (P := P) h1 (k.damagedGroup h1))
theorem Kept.actOnRecord (k : Kept P) (hr : RoundKeeps P rnd) (h : P s) {c r} : P (actOnRecord rnd c r s) := by
  unfold Machine.actOnRecord; split
  · exact h
  · split
    · exact k.port _ _ _ (portKeeps_joinGroup r) h
    · exact k.closeGroup hr h
theorem Kept.actOnMark (k : Kept P) (hr : RoundKeeps P rnd) (h : P s) {c m} : P (actOnMark rnd c s m) := by
  unfold Machine.actOnMark; split
  · exact k.port _ _ _ portKeeps_dropGroup h
  · split
    · exact k.runEndHanded hr h
    · exact h
theorem Kept.takeRecord (k : Kept P) (hr : RoundKeeps P rnd) (h : P s) {c} : P (takeRecord rnd c s) := by
  unfold Machine.takeRecord; split
  · exact h
  · rename_i r rest hq
    dsimp only
    refine kept_foldl (P := P) _ (fun _ _ h => k.actOnMark hr h) _ (k.actOnRecord hr (k.latchStatus ?_))
    have hk : PortKeeps (fun p => if p.queue = r :: rest then { p with queue := rest } else p) := by
      intro p hp
      simp only [Port.bounded] at hp ⊢
      split
      · rename_i e; rw [e] at hp; simp at hp ⊢; omega
      · omega
    have := k.port s c _ hk h
    unfold Machine.modPort at this ⊢
    simp only [hq, if_true] at this
    exact this
theorem Kept.runEndArrives (k : Kept P) (hr : RoundKeeps P rnd) (h : P s) {c e} : P (runEndArrives rnd c e s) := by
  have h1 : P (Machine.modPort c (fun p =>
      { p with runOpen := false, arrival := 0, heldRunEnd := some e, queue := markTail .endFollows p.queue }) s) :=
    k.port _ _ _ (fun p hp => by simp only [Port.bounded, markTail_length] at hp ⊢; omega) h
  unfold Machine.runEndArrives; split
  · dsimp only
    split
    · exact k.runEndHanded hr h1
    · exact h1
  · exact h

end Sys2Proof.Machine
end

