-- ==== Sys2Proof/Laws/KeptCommands.lean ====
section
/-! SUPPORT. What the effects of commands can touch: `Kept` carried on to the effects of the requests, station frames and events. The
effects that touch more (a catalog entry's state, the tickets, the baselines, the registration counter) say so in a hypothesis. -/

namespace Sys2Proof.Machine

open Sys2Proof

variable {P : State → Prop} {s : State} {rnd : Round}

/-! ### Lots -/

theorem Kept.exclude (k : Kept P) (h : P s) {x} : P (exclude x s) := k.modLot h
theorem Kept.waiveRecord (k : Kept P) (h : P s) {x l r} : P (waiveRecord x l r s) := by
  unfold Machine.waiveRecord
  refine kept_ite (P := P) ?_ h
  split
  · exact k.waiveChecks h
  · split
    · exact k.waiveChecks h
    · exact h
  all_goals exact h
theorem Kept.orderRetest (k : Kept P) (hr : RoundKeeps P rnd) (h : P s) {x l r} : P (orderRetest rnd x l r s) := by
  unfold Machine.orderRetest
  exact k.queuePass hr (k.modLot (k.modTally (k.exclude h)))
theorem Kept.disposeRecord (k : Kept P) (hr : RoundKeeps P rnd) (h : P s) {x l r d} : P (disposeRecord rnd x l r d s) := by
  unfold Machine.disposeRecord
  split
  · exact k.waiveRecord h
  · exact kept_ite (P := P) (k.modLot (k.exclude h)) (k.exclude (k.waiveRecord h))
  · exact kept_ite (P := P) (k.modLot h) (k.orderRetest hr h)
  · exact h
theorem Kept.lastHoldGone (k : Kept P) (hr : RoundKeeps P rnd) (h : P s) {x} : P (lastHoldGone rnd x s) := by
  unfold Machine.lastHoldGone
  split
  · exact h
  · have h1 : ∀ l : Lot, P (l.atCells.foldl (fun s a => Machine.holdRemoved rnd a.1 ⟨x, a.2⟩ s) s) := fun l =>
      kept_foldl (P := P) _ (fun _ _ h => k.holdRemoved hr h) _ h
    have h2 : ∀ (o : Option Lot) (t : State), P t → P (match o with
        | some l1 => if l1.route = .stepHeld then Machine.proceed rnd x t else t
        | none => t) := by
      intro o t ht; cases o
      · exact ht
      · exact kept_ite (P := P) (k.proceed hr ht) ht
    exact k.refreshLot (kept_ite (P := P) (hr _ (h2 _ _ (h1 _))) (h2 _ _ (h1 _)))
theorem Kept.disposeHold (k : Kept P) (hr : RoundKeeps P rnd) (h : P s) {x l r d} : P (disposeHold rnd x l r d s) := by
  have h1 : P (Machine.lotChanged x (Machine.raise (.holdCleared l.id r.reason d)
      (s.setLot x (some { l with holds := l.holds.filter fun g => g.reason ≠ r.reason })))) :=
    k.lotChanged (k.raise _ _ (k.setLot h))
  unfold Machine.disposeHold
  exact kept_ite (P := P) (k.lastHoldGone hr (k.disposeRecord hr h1)) (k.refreshLot (k.disposeRecord hr h1))
theorem Kept.decideScrap (k : Kept P) (h : P s) {x o} : P (decideScrap x o s) := by
  unfold Machine.decideScrap
  split
  · exact h
  · rename_i l _
    have h2 := fun v st => kept_ite (P := P) (c := o = st) (k.setLot (x := x) (l := some { l with state := v }) h)
      (k.lotChanged (x := x) (k.raise _ (.lotState l.id o st) (k.setLot (x := x) (l := some { l with state := v }) h)))
    exact kept_ite (P := P) (k.dropLive (h2 _ _)) (h2 _ _)
theorem Kept.scrapLot (k : Kept P) (hr : RoundKeeps P rnd) (h : P s) {x l} : P (scrapLot rnd x l s) := by
  unfold Machine.scrapLot
  refine k.decideScrap (kept_foldl (P := P) _ (fun _ _ h => k.abortEvent hr h) _
    (kept_foldl (P := P) _ (fun _ _ h => k.updateWaiting hr h) _ (k.modLot (kept_foldl (P := P) _ (fun _ _ h => k.emptyPending h) _
      (k.memberRemoved (k.removeEntry (kept_foldl (P := P) _ (fun _ _ h => k.raise _ _ h) _ (k.setLot h))))))))
theorem Kept.takeQa (k : Kept P) (hr : RoundKeeps P rnd) (h : P s) {x o} : P (takeQa rnd x o s) := by
  unfold Machine.takeQa
  split
  · exact k.refreshLot (k.modLot h)
  · exact k.refreshLot (k.modLot (k.mergeHold hr h))
theorem Kept.enterLot (k : Kept P) (h : P { s with regCounter := satInc top32 s.regCounter }) {x l} : P (enterLot x l s) := by
  unfold Machine.enterLot
  exact k.addLive (k.setLot (k.lotRemoved h))
theorem Kept.restoreLot (k : Kept P) (hr : RoundKeeps P rnd) (h : P { s with regCounter := satInc top32 s.regCounter }) {x c i} :
    P (restoreLot rnd x c i s) := by
  have h2 : P (Machine.setCheckMark x c.checkMark (c.summaries.foldl (fun s u => Machine.setSummary x u s)
      (Machine.enterLot x (importedLot c i s.regCounter) s))) :=
    k.setCheckMark (kept_foldl (P := P) _ (fun _ _ h => k.setSummary h) _ (k.enterLot h))
  generalize hs2 : Machine.setCheckMark x c.checkMark (c.summaries.foldl (fun s u => Machine.setSummary x u s)
      (Machine.enterLot x (importedLot c i s.regCounter) s)) = s2 at h2
  unfold Machine.restoreLot
  dsimp only
  rw [hs2]
  have h3 : ∀ o : Option StepRec, P (if c.route.atStep then (match o with
      | none => Machine.modTally x (fun _ => trimImported [] c.tally) s2
      | some st => Machine.reviewImport rnd x c.holds st.limits
          (Machine.modTally x (fun _ => trimImported st.limits.entries c.tally) s2)) else s2) := by
    intro o
    refine kept_ite (P := P) ?_ h2
    cases o
    · exact k.modTally h2
    · exact k.reviewImport hr (k.modTally h2)
  exact k.refreshLot (kept_ite (P := P) (h3 _) (k.entryNeeded hr (h3 _)))

/-! ### Suspension -/

theorem Kept.returnStillPending (k : Kept P) (hr : RoundKeeps P rnd) (h : P s) {a} : P (returnStillPending rnd s a) := by
  unfold Machine.returnStillPending
  exact kept_ite (P := P) (k.updateWaiting hr (k.returnPending hr h)) h
theorem Kept.suspend (k : Kept P) (hr : RoundKeeps P rnd) {v : ProgramRev} (h : P (setCatState v.name v.revision .suspended s)) :
    P (suspend rnd v s) := by
  unfold Machine.suspend
  exact k.ships _ _ (kept_foldl (P := P) _ (fun _ _ h => k.endLoad hr h) _ (kept_foldl (P := P) _ (fun _ _ h => k.returnStillPending hr h) _
    (kept_foldl (P := P) _ (fun _ _ h => k.mergeHold hr h) _ h)))

/-! ### Shipments -/

theorem Kept.issueTicket (k : Kept P) {n : ShipSlot} {h : Shipment} (hp : P { s with
    tickets := s.tickets ++ [newTicket s h]
    ticketCounter := skipHeld (s.tickets ++ [newTicket s h]) ((s.tickets ++ [newTicket s h]).length + 1) (nextNumber (newTicket s h).number) }) :
    P (issueTicket n h s) := by
  unfold Machine.issueTicket
  exact k.raise _ _ (kept_foldl (P := P) _ (fun _ _ h => k.refreshLot h) _ (k.setShip hp))
theorem Kept.withdraw (k : Kept P) (h : P s) (hf : ∀ t f, P t → P { t with tickets := t.tickets.filter f }) {n e} :
    P (withdraw n e s) := by
  unfold Machine.withdraw
  split
  · exact h
  · exact k.raise _ _ (kept_foldl (P := P) _ (fun _ _ h => k.refreshLot h) _ (k.setShip (hf _ _ h)))
theorem kept_learnEntry (hb : ∀ t i n b v, P t → P (setBaseline i n b v t)) (h : P s) {i n m u e} : P (learnEntry i n m u s e) := by
  unfold Machine.learnEntry
  exact kept_ite (P := P) h (hb _ _ _ _ _ h)
theorem kept_learnStep (hb : ∀ t i n b v, P t → P (setBaseline i n b v t)) (h : P s) {x i n} : P (learnStep x i s n) := by
  unfold Machine.learnStep
  split
  · exact kept_foldl (P := P) _ (fun _ _ h => kept_learnEntry hb h) _ h
  · exact h
theorem kept_acceptedLot (hb : ∀ t i n b v, P t → P (setBaseline i n b v t)) (h : P s) {x l} : P (acceptedLot x l s) := by
  unfold Machine.acceptedLot
  exact kept_ite (P := P) (kept_foldl (P := P) _ (fun _ _ h => kept_learnStep hb h) _ h) h
theorem Kept.closeMember (k : Kept P) (hb : ∀ t i n b v, P t → P (setBaseline i n b v t)) (h : P s) {x} : P (closeMember s x) := by
  unfold Machine.closeMember
  split
  · exact h
  · exact kept_acceptedLot hb (k.dropLive (k.setLotState h))
theorem Kept.acceptTicket (k : Kept P) (hb : ∀ t i n b v, P t → P (setBaseline i n b v t)) {n : Nat}
    (h : P { s with tickets := s.tickets.filter fun t => t.number ≠ n }) : P (acceptTicket n s) := by
  unfold Machine.acceptTicket
  dsimp only
  split
  · exact h
  · split
    · exact h
    · exact k.setShip (kept_foldl (P := P) _ (fun _ _ h => k.closeMember hb h) _ h)

/-! ### Cells -/

theorem Kept.downUnstarted (k : Kept P) (hr : RoundKeeps P rnd) (h : P s) {c} : P (downUnstarted rnd c s) := by
  unfold Machine.downUnstarted
  exact k.setCellState (k.modCell (k.leaveCell hr (k.sendAbort (k.abortLoad h))))
theorem Kept.takeDown (k : Kept P) (hr : RoundKeeps P rnd) (h : P s) {c} : P (takeDown rnd c s) := by
  have h1 := k.returnPending hr (c := c) h
  unfold Machine.takeDown
  refine k.updateWaiting hr ?_
  split
  · exact k.setCellState (k.modCell h1)
  · exact k.downUnstarted hr h1
  · exact k.downUnstarted hr h1
  · exact kept_ite (P := P) (k.drain hr (k.modCell h1)) (k.downUnstarted hr h1)
  · exact kept_ite (P := P) (k.drain hr (k.modCell h1)) (k.downUnstarted hr h1)
  · exact k.drain hr (k.modCell h1)
  · exact k.modCell h1
  · exact k.modCell h1
  · exact h1
  · exact h1
theorem portKeeps_rx {r : Receiver} : PortKeeps fun p => { p with rx := r } := portKeeps_idle fun _ => ⟨rfl, rfl, rfl, rfl⟩
theorem portKeeps_silence {n : Option Nat} : PortKeeps fun p => { p with silence := n } := portKeeps_idle fun _ => ⟨rfl, rfl, rfl, rfl⟩
theorem Kept.proveFrame (k : Kept P) (h : P s) {c} : P (proveFrame c s) := k.port _ _ _ portKeeps_rx h
theorem Kept.restartSilence (k : Kept P) (h : P s) {c} : P (restartSilence c s) := k.port _ _ _ portKeeps_silence h
theorem Kept.keepAlive (k : Kept P) (h : P s) {c} : P (keepAlive c s) := by
  unfold Machine.keepAlive
  exact kept_ite (P := P) (k.restartSilence h) h
theorem Kept.malformedFrame (k : Kept P) (h : P s) {c e} : P (malformedFrame c e s) := k.raise _ _ h
theorem Kept.acceptHello (k : Kept P) (h : P s) {c n e t} : P (acceptHello c n e t s) := k.startPurge (k.restartSilence (k.modCell h))
theorem Kept.helloArrives (k : Kept P) (hr : RoundKeeps P rnd) (h : P s) {c a n e t} : P (helloArrives rnd c a n e t s) := by
  unfold Machine.helloArrives
  refine kept_ite (P := P) (k.raise _ _ h) ?_
  split
  · exact k.acceptHello h
  · exact k.restartSilence (k.modCell h)
  all_goals exact k.acceptHello (k.linkLoss hr h)
theorem Kept.kitLost (k : Kept P) (h : P s) {c} : P (kitLost c s) := by
  unfold Machine.kitLost
  split
  · exact h
  · exact k.raise _ _ (k.setCellState (k.modCell h))
theorem Kept.kitArrives (k : Kept P) (hr : RoundKeeps P rnd) (h : P s) {c t} : P (kitArrives rnd c t s) := by
  have h1 := k.modCell (c := c) (f := fun x => { x with kit := some t }) h
  unfold Machine.kitArrives
  dsimp only
  split
  · exact kept_ite (P := P) (k.setupFromPause hr h1) h1
  · exact kept_ite (P := P) h1 (kept_ite (P := P) (k.drain hr h1) (k.kitLost h1))
  · exact kept_ite (P := P) h1 (k.drain hr h1)
  · exact kept_ite (P := P) h1 (k.drain hr h1)
  · exact kept_ite (P := P) h1 (hr _ h1)
  all_goals exact h1
theorem Kept.soakReached (k : Kept P) (hr : RoundKeeps P rnd) (h : P s) {c} : P (soakReached rnd c s) := by
  unfold Machine.soakReached
  refine kept_ite (P := P) ?_ h
  split
  · exact h
  · exact kept_ite (P := P) (k.dwellEnds hr (k.modCell h)) (k.modCell h)
theorem Kept.checkImage (k : Kept P) (hr : RoundKeeps P rnd) (h : P s) {c v} : P (checkImage rnd c v s) := by
  unfold Machine.checkImage
  refine kept_ite (P := P) ?_ h
  have h1 := k.modLoad (c := c) (f := fun d => { d with stationCheck := some v, checkTimer := false }) h
  dsimp only
  split
  · exact k.endLoad hr h1
  · exact k.loadGood hr (k.raise _ _ (k.modLoad h1))
theorem portKeeps_arrive (r : IntakeRecord) : PortKeeps fun p =>
    if p.queue.length < 16 then trackArrival r { p with queue := p.queue ++ [r] } else p := by
  intro p hp
  simp only [Port.bounded] at hp ⊢
  split
  · unfold trackArrival
    split
    · split <;> simp <;> omega
    · simp; omega
  · exact hp
theorem Kept.arrive (k : Kept P) (hf : ∀ t n, P t → P { t with freeTick := n }) (h : P s) {c b r} : P (arrive c b r s) := by
  unfold Machine.arrive
  split
  · rename_i hl
    have := k.port s c _ (portKeeps_arrive r) h
    unfold Machine.modPort at this ⊢
    simp only [hl, if_true] at this
    exact this
  · exact k.latch (hf _ _ h)

/-! ### FLOOR-RESET -/

theorem Kept.resetCell (k : Kept P) (h : P s) {c} : P (resetCell s c) := by
  unfold Machine.resetCell
  have h1 := k.modCell (c := c) (f := Cell.floorReset) (k.abortLoad (c := c) h)
  exact kept_ite (P := P) (k.startPurge (k.sendAbort h1)) h1

end Sys2Proof.Machine
end

