-- ==== Sys2Proof/Laws/Layouts.lean ====
section
/-! SUPPORT. What a record of a reply or a report holds: each of its fields, whole, and nothing else. -/

namespace Sys2Proof.Machine

open Sys2Proof

@[simp] theorem fieldsFrom_length (pick : LayoutPoint → Nat → Nat) (n : Nat) (fs : List Field) :
    (fieldsFrom pick n fs).length = fs.length := by
  induction fs generalizing n with
  | nil => rfl
  | cons f fs ih => simp [fieldsFrom, ih]

theorem fieldsFrom_get (pick : LayoutPoint → Nat → Nat) (n k : Nat) (fs : List Field) :
    (fieldsFrom pick n fs)[k]? = fs[k]?.map fun f => f.bytes pick (n + k) := by
  induction fs generalizing n k with
  | nil => simp [fieldsFrom]
  | cons f fs ih =>
    cases k with
    | zero => simp [fieldsFrom]
    | succ k => simp [fieldsFrom, ih, Nat.add_assoc, Nat.add_comm 1 k]

/-- The fields of a record are those its rule names, in some order. -/
theorem recordBytes_perm (layout : Layout) (part : LayoutPart) (fs : List Field) :
    ∃ pieces : List (List Byte), recordBytes layout part fs = pieces.flatten ∧ pieces.Perm (fieldsFrom (layout part) 0 fs) := by
  refine ⟨_, rfl, ?_⟩
  have := draw_perm (layout part .order) (fieldsFrom (layout part) 0 fs)
  rwa [fieldsFrom_length] at this

/-- Each field stands whole in its record. -/
theorem field_infix_recordBytes {layout : Layout} {part : LayoutPart} {fs : List Field} {k : Nat} {f : Field} (h : fs[k]? = some f) :
    f.bytes (layout part) k <:+: recordBytes layout part fs := by
  obtain ⟨pieces, he, hp⟩ := recordBytes_perm layout part fs
  have hk : (fieldsFrom (layout part) 0 fs)[k]? = some (f.bytes (layout part) k) := by simp [fieldsFrom_get, h]
  rw [he]
  obtain ⟨before, after, hs⟩ := List.append_of_mem (hp.symm.subset (List.mem_of_getElem? hk))
  exact ⟨before.flatten, after.flatten, by simp [hs]⟩

/-- A record is as long as its fields together. -/
theorem recordBytes_length (layout : Layout) (part : LayoutPart) (fs : List Field) :
    (recordBytes layout part fs).length = ((fieldsFrom (layout part) 0 fs).map List.length).sum := by
  obtain ⟨pieces, he, hp⟩ := recordBytes_perm layout part fs
  rw [he, List.length_flatten]
  exact (hp.map _).sum_eq

@[simp] theorem num32_length (v : Nat) : (num32 v).length = 4 := rfl

@[simp] theorem fixedText_length (width : Nat) (t : Text) : (fixedText width t).length = width := by
  simp [fixedText]; omega

/-- A number takes at most 4 bytes. -/
theorem numBytes_length_le (width v : Nat) : (numBytes width v).length ≤ 4 := by simp [numBytes]

/-- A number takes a width of its field, and so at least the least. -/
theorem fieldWidth_bounds {least most : Nat} (choice : Nat) (h : least ≤ most) :
    least ≤ fieldWidth least most choice ∧ fieldWidth least most choice ≤ most := by
  have := Nat.mod_lt choice (show 0 < most + 1 - least by omega)
  unfold fieldWidth; omega

/-- The bytes a field takes at most. -/
def Field.most : Field → Nat
  | .fixed bytes => bytes.length
  | .number _ _ _ => 4
  | .code _ _ _ => 1
  | .flags _ => 1
  | .list records => 4 + records.flatten.length

theorem Field.bytes_length_le (pick : LayoutPoint → Nat → Nat) (n : Nat) (f : Field) : (f.bytes pick n).length ≤ f.most := by
  cases f with
  | list records =>
    simp only [Field.bytes, Field.most, List.length_append]
    split
    · simp
    · have := numBytes_length_le (fieldWidth 1 4 (pick (.width n) 0)) records.length; omega
  | number least most v => exact numBytes_length_le _ _
  | _ => simp [Field.bytes, Field.most]

/-- A record is no longer than its fields at most. -/
theorem recordBytes_length_le (layout : Layout) (part : LayoutPart) (fs : List Field) :
    (recordBytes layout part fs).length ≤ (fs.map Field.most).sum := by
  rw [recordBytes_length]
  suffices h : ∀ n, ((fieldsFrom (layout part) n fs).map List.length).sum ≤ (fs.map Field.most).sum from h 0
  induction fs with
  | nil => intro n; simp [fieldsFrom]
  | cons f fs ih =>
    intro n
    have h := f.bytes_length_le (layout part) n
    have := ih (n + 1)
    simp only [fieldsFrom, List.map_cons, List.sum_cons]; omega

/-- Every bit of a flags byte that no flag has is 0 (R186). -/
theorem flagsByte_unused {ps : List Nat} {bs : List Bool} {k : Nat} (h : k ∉ ps) : (flagsByte ps bs).getLsbD k = false := by
  induction ps generalizing bs with
  | nil => simp [flagsByte]
  | cons p ps ih =>
    cases bs with
    | nil => simp [flagsByte]
    | cons b bs =>
      simp only [List.mem_cons, not_or] at h
      simp only [flagsByte, BitVec.getLsbD_or, ih h.2, Bool.or_false]
      cases b with
      | false => simp
      | true =>
        have : k < p ∨ k - p ≠ 0 := by omega
        rcases this with h' | h' <;> simp [BitVec.getLsbD_shiftLeft, h']

end Sys2Proof.Machine
end

