-- ==== Sys2Proof/Laws/Loads.lean ====
section
/-! SUPPORT. What a grant of buffers leaves of the loads that do not wait for one (R91), and what a failed load leaves of its context and of
the buffer pool (R101). -/

namespace Sys2Proof.Machine

open Sys2Proof

/-! ### The buffer pool and the contexts, changed (R90) -/

@[simp] theorem turnBuffer_cells (is : Buffer → Bool) (b : Buffer) (s : State) : (turnBuffer is b s).cells = s.cells := by
  unfold turnBuffer; split <;> rfl
@[simp] theorem turnBuffer_loads (is : Buffer → Bool) (b : Buffer) (s : State) : (turnBuffer is b s).loads = s.loads := by
  unfold turnBuffer; split <;> rfl
@[simp] theorem turnBuffer_host (is : Buffer → Bool) (b : Buffer) (s : State) : (turnBuffer is b s).host = s.host := by
  unfold turnBuffer; split <;> rfl
@[simp] theorem turnBuffer_bufferWaiting (is : Buffer → Bool) (b : Buffer) (s : State) :
    (turnBuffer is b s).bufferWaiting = s.bufferWaiting := by
  unfold turnBuffer; split <;> rfl

@[simp] theorem modLoad_load_same (c : CellId) (f : Load → Load) (s : State) : (modLoad c f s).load c = f (s.load c) :=
  get_set_same _ _ _

theorem modLoad_load_other {c d : CellId} (f : Load → Load) (s : State) (h : d ≠ c) : (modLoad d f s).load c = s.load c :=
  get_set_other _ _ _ _ h

@[simp] theorem setBufferWaiting_same (c : CellId) (b : Bool) (s : State) : (setBufferWaiting c b s).bufferWaiting.get c = b :=
  get_set_same _ _ _

theorem setBufferWaiting_other {c d : CellId} (b : Bool) (s : State) (h : d ≠ c) :
    (setBufferWaiting d b s).bufferWaiting.get c = s.bufferWaiting.get c :=
  get_set_other _ _ _ _ h

/-! ### Grants leave the loads that do not wait (R91) -/

/-- What a load is left with: its context, its mark in the buffer-waiting set, and no buffer of the pool that is new to it. -/
structure LeftAlone (c : CellId) (s t : State) : Prop where
  load : t.load c = s.load c
  waiting : t.bufferWaiting.get c = s.bufferWaiting.get c
  pool : s.holdsNoBuffer c → t.holdsNoBuffer c

theorem LeftAlone.trans {c : CellId} {s t u : State} (h : LeftAlone c s t) (k : LeftAlone c t u) : LeftAlone c s u :=
  ⟨k.load.trans h.load, k.waiting.trans h.waiting, k.pool ∘ h.pool⟩

/-- A buffer reserved for another load is none of this one's (R90). -/
theorem reserveBuffer_leaves {c d : CellId} (o : Nat) (s : State) (h : d ≠ c) : LeftAlone c s (reserveBuffer d o s) := by
  refine ⟨by simp [reserveBuffer, State.load], by simp [reserveBuffer], fun hs b offset data => ?_⟩
  unfold reserveBuffer turnBuffer
  split
  · rename_i i _
    dsimp only
    rw [get_set]
    split
    · simp [h]
    · exact hs b offset data
  · exact hs b offset data

/-- A grant to another load leaves this one alone (R91). -/
theorem grantBuffer_leaves {c d : CellId} (s : State) (h : d ≠ c) : LeftAlone c s (grantBuffer d s) := by
  have hr := reserveBuffer_leaves (s.load d).nextWant s h
  have hw : LeftAlone c s (issueWant d { reserveBuffer d (s.load d).nextWant s with grantPointer := d }) := by
    refine hr.trans ⟨?_, ?_, fun hs => ?_⟩
    · simp only [issueWant, modLoad_load_other _ _ h, raise_load]; rfl
    · simp [issueWant]
    · simpa [issueWant, State.holdsNoBuffer] using hs
  unfold grantBuffer
  dsimp only
  split
  · exact hw
  · exact hw.trans ⟨by simp, setBufferWaiting_other _ _ h, fun hs => by simpa [State.holdsNoBuffer] using hs⟩

/-- The grants that follow a free buffer leave a load that waits for none alone (R91). -/
theorem distribute_leaves {c : CellId} (n : Nat) (s : State) (h : s.bufferWaiting.get c = false) : LeftAlone c s (distribute n s) := by
  induction n generalizing s with
  | zero => exact ⟨rfl, rfl, id⟩
  | succ n ih =>
    unfold distribute
    split
    · exact ⟨rfl, rfl, id⟩
    · split
      · exact ⟨rfl, rfl, id⟩
      · rename_i d hd
        have hne : d ≠ c := by
          rintro rfl
          rw [State.nextGrant] at hd
          have := List.find?_some hd
          rw [h] at this
          cases this
        have hg := grantBuffer_leaves s hne
        exact hg.trans (ih _ (hg.waiting.trans h))

theorem grantFree_leaves {c : CellId} (s : State) (h : s.bufferWaiting.get c = false) : LeftAlone c s (grantFree s) :=
  distribute_leaves _ s h

/-- With no load waiting for a buffer none is granted (R91). -/
theorem grantFree_quiet {s : State} (h : ∀ c : CellId, s.bufferWaiting.get c = false) : grantFree s = s := by
  have hn : s.nextGrant = none := by simp [State.nextGrant, h]
  unfold grantFree
  cases s.freeBuffers with
  | zero => rfl
  | succ n => unfold distribute; split <;> simp [hn]

/-! ### A failed load (R101) -/

/-- A buffer freed from a load is none of it. -/
theorem freedFrom_ne (c : CellId) (b : Buffer) (offset : Nat) (data : List Byte) :
    b.freedFrom c ≠ .reserved c offset ∧ b.freedFrom c ≠ .filled c offset data := by
  unfold Buffer.freedFrom
  split
  · simp
  · split <;> simp_all
  · split <;> simp_all

/-- A freed load holds no buffer. -/
theorem freeLoad_holdsNoBuffer (c : CellId) (s : State) : (freeLoad c s).holdsNoBuffer c := by
  intro b offset data
  have : (freeLoad c s).buffers.get b = (s.buffers.get b).freedFrom c := by simp [freeLoad, Vector.get_eq_getElem]
  rw [this]
  exact freedFrom_ne c _ offset data

@[simp] theorem sendFrame_load (c d : CellId) (f : PartFrame) (s : State) : (sendFrame c f s).load d = s.load d := by
  unfold sendFrame; split <;> (try split) <;> (try split) <;> simp
@[simp] theorem sendFrame_bufferWaiting (c : CellId) (f : PartFrame) (s : State) :
    (sendFrame c f s).bufferWaiting = s.bufferWaiting := by
  unfold sendFrame; split <;> (try split) <;> (try split) <;> simp
@[simp] theorem sendFrame_buffers (c : CellId) (f : PartFrame) (s : State) : (sendFrame c f s).buffers = s.buffers := by
  unfold sendFrame; split <;> (try split) <;> (try split) <;> simp
@[simp] theorem freeLoad_load (c d : CellId) (s : State) : (freeLoad c s).load d = s.load d := rfl
@[simp] theorem freeLoad_bufferWaiting (c : CellId) (s : State) : (freeLoad c s).bufferWaiting = s.bufferWaiting := rfl

/-- A load that fails is FAILED with the error, without wants, blocks in flight, check timer or mark in the buffer-waiting set, and no
buffer of the pool is its own, whatever other loads its buffers go to (R101). -/
theorem failLoad_leaves {c : CellId} {e : LoadError} {s : State} (h : (s.load c).active) :
    (failLoad c e s).load c = { s.load c with state := .failed, error := some e, wants := [], inFlight := [], checkTimer := false }
    ∧ (failLoad c e s).bufferWaiting.get c = false ∧ (failLoad c e s).holdsNoBuffer c := by
  unfold failLoad
  dsimp only
  rw [if_pos h]
  have hg := grantFree_leaves (c := c) (setBufferWaiting c false (freeLoad c (sendFrame c .imageDiscard (modLoad c (fun d =>
    { d with state := .failed, error := some e, wants := [], inFlight := [], checkTimer := false }) s)))) (setBufferWaiting_same _ _ _)
  refine ⟨?_, ?_, ?_⟩
  · rw [raise_load, hg.load]; simp
  · rw [raise_bufferWaiting, hg.waiting]; simp
  · have := hg.pool (by simpa [State.holdsNoBuffer] using freeLoad_holdsNoBuffer c (sendFrame c .imageDiscard (modLoad c (fun d =>
      { d with state := .failed, error := some e, wants := [], inFlight := [], checkTimer := false }) s)))
    simpa [State.holdsNoBuffer] using this

/-- Where no other load waits, the pool is as it was but for the failed load's buffers, which are free (R91, R101). -/
theorem failLoad_buffers {c : CellId} {e : LoadError} {s : State} (h : (s.load c).active)
    (hw : ∀ d, d ≠ c → s.bufferWaiting.get d = false) : (failLoad c e s).buffers = s.buffers.map (Buffer.freedFrom c) := by
  unfold failLoad
  dsimp only
  rw [if_pos h, raise_buffers, grantFree_quiet, setBufferWaiting_buffers]
  · simp [freeLoad]
  · intro d
    by_cases hd : c = d
    · subst hd; simp
    · rw [setBufferWaiting_other _ _ hd]; simpa using hw d (Ne.symm hd)

end Sys2Proof.Machine
end

