-- ==== Sys2Proof/WellFormed.lean ====
section
/-! DEFINITION. A well-formed command: each operand fits the form in which R186 lays fields into frames. Whether a value lies in
the range its rule gives is not asked here: that is the owning block's check, and an ill-ranged request is answered REFUSED. -/

namespace Sys2Proof

/-- A text fits a fixed text field of that many bytes, or a trailing text of at most that many (R186). -/
def fitsText (width : Nat) (t : Text) : Bool := t.length ≤ width

/-- A number fits that many bytes (R186). -/
def fitsBytes (bytes n : Nat) : Bool := n < 256 ^ bytes

/-- A step of a PRODUCT-DEFINE fits its fields (R2, R3, R186). -/
def StepReq.fits (s : StepReq) : Bool :=
  fitsText 16 s.program && fitsBytes 2 s.revision && fitsText 8 s.kit && fitsBytes 1 s.minSites && fitsBytes 2 s.soakTimeout
    && fitsBytes 2 s.dwell && fitsBytes 4 s.yieldFloor && fitsBytes 2 s.minSample && fitsBytes 1 s.consecFail
    && s.entries.length < 256
    && s.entries.all fun e => fitsBytes 1 e.bin && fitsBytes 4 e.ceiling && fitsBytes 4 e.floor && fitsBytes 1 e.k

/-- The operands of a command fit the frames that carry them (R105, R172, R186, R189). Where neither R186 nor R189 gives a field's width,
the width is the model's choice: a number of whole bytes that holds the range, and more where a value outside it is to be refused or
clamped, as for BASELINE-SET n in 2 bytes and mean and D in 4 each (assumption 25). The sites of CELL-SITES-ON fit R186's one byte, in
which no site above 7 can be named (assumption 46). -/
def Instr.wellFormed : Instr → Bool
  | .productDefine _ req => fitsText 10 req.code && fitsBytes 1 req.routeLength && req.steps.length < 256 &&
      req.steps.all StepReq.fits && fitsBytes 2 req.qaSample
  | .productDelete _ code => fitsText 10 code
  | .productQuery _ code => fitsText 10 code
  | .limitMask _ code step check _ => fitsText 10 code && fitsBytes 1 step &&
      (match check with | .yield => true | .bin b => fitsBytes 1 b)
  | .productRevise _ code step revision => fitsText 10 code && fitsBytes 1 step && fitsBytes 2 revision
  | .catalogAdd _ name revision length _ => fitsText 16 name && fitsBytes 2 revision && fitsBytes 3 length
  | .catalogState _ name revision _ => fitsText 16 name && fitsBytes 2 revision
  | .catalogRemove _ name revision => fitsText 16 name && fitsBytes 2 revision
  | .catalogQuery _ entry => match entry with | none => true | some e => fitsText 16 e.name && fitsBytes 2 e.revision
  | .lotRegister _ id code priority startQty split => fitsText 16 id && fitsText 10 code && fitsBytes 1 priority &&
      fitsBytes 2 startQty && fitsBytes 2 split
  | .lotDispose _ id _ _ => fitsText 16 id
  | .lotHold _ id => fitsText 16 id
  | .lotPriority _ id priority => fitsText 16 id && fitsBytes 1 priority
  | .lotQuery _ id => fitsText 16 id
  | .lotDelete _ id => fitsText 16 id
  | .lotExport _ id => fitsText 16 id
  | .lotImport _ context =>
      match context with
      | none => true
      | some c => fitsText 16 c.id && fitsBytes 1 c.product && fitsText 10 c.productCode && c.routePrograms.all (fitsText 16) &&
          fitsBytes 1 c.priority && fitsBytes 2 c.startQty && fitsBytes 2 c.split && fitsBytes 1 c.stepIndex &&
          fitsBytes 4 c.stepReady && fitsBytes 4 c.regTime
  | .cellConfigure _ cell name speed limit lifetime interval => fitsBytes 1 cell && fitsText 16 name && fitsBytes 4 speed &&
      fitsBytes 4 limit && fitsBytes 4 lifetime && fitsBytes 2 interval
  | .cellQuery _ cell => fitsBytes 1 cell
  | .cellPause _ cell => fitsBytes 1 cell
  | .cellResume _ cell => fitsBytes 1 cell
  | .cellDown _ cell => fitsBytes 1 cell
  | .cellUp _ cell => fitsBytes 1 cell
  | .cellClear _ cell => fitsBytes 1 cell
  | .cellSitesOn _ cell sites => fitsBytes 1 cell && fitsBytes 1 sites
  | .cellContactor _ cell limit _ => fitsBytes 1 cell && (match limit with | none => true | some n => fitsBytes 4 n)
  | .dispatchQuery _ start => fitsBytes 1 start
  | .dispatchAging _ limit => fitsBytes 1 limit
  | .loadData _ _ _ data => data.length ≤ 1196
  | .cellErrReset _ cell => fitsBytes 1 cell
  | .tallyQuery _ id => fitsText 16 id
  | .baselineQuery _ code step => fitsText 10 code && fitsBytes 1 step
  | .baselineSet _ code step bin n mean deviation => fitsText 10 code && fitsBytes 1 step && fitsBytes 1 bin && fitsBytes 2 n &&
      fitsBytes 4 mean && fitsBytes 4 deviation
  | .qaResult _ id _ => fitsText 16 id
  | .shipOpen _ ship code => fitsText 16 ship && fitsText 10 code
  | .shipAdd _ ship lot => fitsText 16 ship && fitsText 16 lot
  | .shipRemove _ ship lot => fitsText 16 ship && fitsText 16 lot
  | .shipCheck _ ship => fitsText 16 ship
  | .shipAccept _ ticket => fitsBytes 2 ticket
  | .shipCancel _ ship => fitsText 16 ship
  | .shipQuery _ ship => match ship with | none => true | some t => fitsText 16 t
  | .summaryQuery _ id step => fitsText 16 id && fitsBytes 1 step
  | .identify _ => true
  | .setTime _ _ => true
  | .floorStatus _ => true
  | .floorReset _ => true
  | .unknownKind _ _ => true
  | .hostCandidateFail bytes => bytes.length ≤ 1208
  | .hostLineBreak => true
  | .hostFrameSent => true
  | .floorTimeTick => true
  | .coldReset _ _ _ => true
  | .hello _ name sites _ kitCode => fitsText 16 name && fitsBytes 1 sites && kitCode.length ≤ 282
  | .kit _ code => code.length ≤ 300
  | .purged _ _ => true
  | .soakReached _ => true
  | .status _ => true
  | .siteResult _ body => body.length ≤ 300
  | .groupEnd _ body => body.length ≤ 300
  | .jam _ => true
  | .jamClear _ => true
  | .runEnd _ _ _ => true
  | .blockAck _ _ => true
  | .blockNak _ _ => true
  | .imageCheck _ _ => true
  | .malformed _ _ => true
  | .cellCandidateFail _ bytes => bytes.length ≤ 306
  | .lineBreak _ => true
  | .silence _ => true
  | .cellFrameSent _ => true
  | .intakeRecordTaken _ => true
  | .purgeTimeout _ => true
  | .soakTimeout _ => true
  | .dwellExpiry _ => true
  | .dataTimeout _ offset => fitsBytes 3 offset
  | .ackTimeout _ offset => fitsBytes 3 offset
  | .checkTimeout _ => true

end Sys2Proof
end

