-- ==== Sys2Proof/Laws/PerInstr.lean ====
section
/-! SUPPORT. A statement about every command as syntax, one lemma per constructor: a request's tag only names the request. -/

namespace Sys2Proof.Laws

open Sys2Proof Sys2Proof.Machine

/-- A host request with another tag; any other command as it is. -/
def CommandForms.withTag (tag : BitVec 16) : Instr → Instr
  | .productDefine _ req => .productDefine tag req
  | .productDelete _ code => .productDelete tag code
  | .productQuery _ code => .productQuery tag code
  | .limitMask _ code step check mask => .limitMask tag code step check mask
  | .productRevise _ code step revision => .productRevise tag code step revision
  | .catalogAdd _ name revision length check => .catalogAdd tag name revision length check
  | .catalogState _ name revision st => .catalogState tag name revision st
  | .catalogRemove _ name revision => .catalogRemove tag name revision
  | .catalogQuery _ entry => .catalogQuery tag entry
  | .lotRegister _ id code priority startQty split => .lotRegister tag id code priority startQty split
  | .lotDispose _ id reason disposition => .lotDispose tag id reason disposition
  | .lotHold _ id => .lotHold tag id
  | .lotPriority _ id priority => .lotPriority tag id priority
  | .lotQuery _ id => .lotQuery tag id
  | .lotDelete _ id => .lotDelete tag id
  | .lotExport _ id => .lotExport tag id
  | .lotImport _ context => .lotImport tag context
  | .cellConfigure _ cell name speed limit lifetime interval => .cellConfigure tag cell name speed limit lifetime interval
  | .cellQuery _ cell => .cellQuery tag cell
  | .cellPause _ cell => .cellPause tag cell
  | .cellResume _ cell => .cellResume tag cell
  | .cellDown _ cell => .cellDown tag cell
  | .cellUp _ cell => .cellUp tag cell
  | .cellClear _ cell => .cellClear tag cell
  | .cellSitesOn _ cell sites => .cellSitesOn tag cell sites
  | .cellContactor _ cell limit resetCounter => .cellContactor tag cell limit resetCounter
  | .dispatchQuery _ start => .dispatchQuery tag start
  | .dispatchAging _ limit => .dispatchAging tag limit
  | .loadData _ cell offset data => .loadData tag cell offset data
  | .cellErrReset _ cell => .cellErrReset tag cell
  | .tallyQuery _ id => .tallyQuery tag id
  | .baselineQuery _ code step => .baselineQuery tag code step
  | .baselineSet _ code step bin n mean deviation => .baselineSet tag code step bin n mean deviation
  | .qaResult _ id outcome => .qaResult tag id outcome
  | .shipOpen _ ship code => .shipOpen tag ship code
  | .shipAdd _ ship lot => .shipAdd tag ship lot
  | .shipRemove _ ship lot => .shipRemove tag ship lot
  | .shipCheck _ ship => .shipCheck tag ship
  | .shipAccept _ ticket => .shipAccept tag ticket
  | .shipCancel _ ship => .shipCancel tag ship
  | .shipQuery _ ship => .shipQuery tag ship
  | .summaryQuery _ id step => .summaryQuery tag id step
  | .identify _ => .identify tag
  | .setTime _ time => .setTime tag time
  | .floorStatus _ => .floorStatus tag
  | .floorReset _ => .floorReset tag
  | .unknownKind _ fault => .unknownKind tag fault
  | .hostCandidateFail bytes => .hostCandidateFail bytes
  | .hostLineBreak => .hostLineBreak
  | .hostFrameSent => .hostFrameSent
  | .floorTimeTick => .floorTimeTick
  | .coldReset cause strap1 strap0 => .coldReset cause strap1 strap0
  | .hello cell name sites classes kit => .hello cell name sites classes kit
  | .kit cell code => .kit cell code
  | .purged cell count => .purged cell count
  | .soakReached cell => .soakReached cell
  | .status cell => .status cell
  | .siteResult cell body => .siteResult cell body
  | .groupEnd cell body => .groupEnd cell body
  | .jam cell => .jam cell
  | .jamClear cell => .jamClear cell
  | .runEnd cell tested check => .runEnd cell tested check
  | .blockAck cell offset => .blockAck cell offset
  | .blockNak cell offset => .blockNak cell offset
  | .imageCheck cell check => .imageCheck cell check
  | .malformed cell kind => .malformed cell kind
  | .cellCandidateFail cell bytes => .cellCandidateFail cell bytes
  | .lineBreak cell => .lineBreak cell
  | .silence cell => .silence cell
  | .cellFrameSent cell => .cellFrameSent cell
  | .intakeRecordTaken cell => .intakeRecordTaken cell
  | .purgeTimeout cell => .purgeTimeout cell
  | .soakTimeout cell => .soakTimeout cell
  | .dwellExpiry cell => .dwellExpiry cell
  | .dataTimeout cell offset => .dataTimeout cell offset
  | .ackTimeout cell offset => .ackTimeout cell offset
  | .checkTimeout cell => .checkTimeout cell

/-- The tag of a request is no part of its form (R174): with another tag the command is as well-formed as before, and it is the
same kind of request, or none. -/
def CommandForms.Statement (i : Instr) : Prop :=
  ∀ tag : BitVec 16, (CommandForms.withTag tag i).wellFormed = i.wellFormed
    ∧ requestOf (CommandForms.withTag tag i) = (requestOf i).map fun r => (tag, r.2)

theorem CommandForms.productDefine (tag : BitVec 16) (req : ProductReq) :
    CommandForms.Statement (.productDefine tag req) := fun _ => ⟨rfl, rfl⟩

theorem CommandForms.productDelete (tag : BitVec 16) (code : Text) :
    CommandForms.Statement (.productDelete tag code) := fun _ => ⟨rfl, rfl⟩

theorem CommandForms.productQuery (tag : BitVec 16) (code : Text) :
    CommandForms.Statement (.productQuery tag code) := fun _ => ⟨rfl, rfl⟩

theorem CommandForms.limitMask (tag : BitVec 16) (code : Text) (step : Nat) (check : CheckSel) (mask : Byte) :
    CommandForms.Statement (.limitMask tag code step check mask) := fun _ => ⟨rfl, rfl⟩

theorem CommandForms.productRevise (tag : BitVec 16) (code : Text) (step : Nat) (revision : Nat) :
    CommandForms.Statement (.productRevise tag code step revision) := fun _ => ⟨rfl, rfl⟩

theorem CommandForms.catalogAdd (tag : BitVec 16) (name : Text) (revision : Nat) (length : Nat) (check : BitVec 32) :
    CommandForms.Statement (.catalogAdd tag name revision length check) := fun _ => ⟨rfl, rfl⟩

theorem CommandForms.catalogState (tag : BitVec 16) (name : Text) (revision : Nat) (st : Option CatState) :
    CommandForms.Statement (.catalogState tag name revision st) := fun _ => ⟨rfl, rfl⟩

theorem CommandForms.catalogRemove (tag : BitVec 16) (name : Text) (revision : Nat) :
    CommandForms.Statement (.catalogRemove tag name revision) := fun _ => ⟨rfl, rfl⟩

theorem CommandForms.catalogQuery (tag : BitVec 16) (entry : Option ProgramRev) :
    CommandForms.Statement (.catalogQuery tag entry) := fun _ => ⟨rfl, rfl⟩

theorem CommandForms.lotRegister (tag : BitVec 16) (id : Text) (code : Text) (priority : Nat) (startQty : Nat) (split : Nat) :
    CommandForms.Statement (.lotRegister tag id code priority startQty split) := fun _ => ⟨rfl, rfl⟩

theorem CommandForms.lotDispose (tag : BitVec 16) (id : Text) (reason : Option HoldReason) (disposition : Option Disposition) :
    CommandForms.Statement (.lotDispose tag id reason disposition) := fun _ => ⟨rfl, rfl⟩

theorem CommandForms.lotHold (tag : BitVec 16) (id : Text) :
    CommandForms.Statement (.lotHold tag id) := fun _ => ⟨rfl, rfl⟩

theorem CommandForms.lotPriority (tag : BitVec 16) (id : Text) (priority : Nat) :
    CommandForms.Statement (.lotPriority tag id priority) := fun _ => ⟨rfl, rfl⟩

theorem CommandForms.lotQuery (tag : BitVec 16) (id : Text) :
    CommandForms.Statement (.lotQuery tag id) := fun _ => ⟨rfl, rfl⟩

theorem CommandForms.lotDelete (tag : BitVec 16) (id : Text) :
    CommandForms.Statement (.lotDelete tag id) := fun _ => ⟨rfl, rfl⟩

theorem CommandForms.lotExport (tag : BitVec 16) (id : Text) :
    CommandForms.Statement (.lotExport tag id) := fun _ => ⟨rfl, rfl⟩

theorem CommandForms.lotImport (tag : BitVec 16) (context : LotContext) :
    CommandForms.Statement (.lotImport tag context) := fun _ => ⟨rfl, rfl⟩

theorem CommandForms.cellConfigure (tag : BitVec 16) (cell : Nat) (name : Text) (speed : Nat) (limit : Nat) (lifetime : Nat) (interval : Nat) :
    CommandForms.Statement (.cellConfigure tag cell name speed limit lifetime interval) := fun _ => ⟨rfl, rfl⟩

theorem CommandForms.cellQuery (tag : BitVec 16) (cell : Nat) :
    CommandForms.Statement (.cellQuery tag cell) := fun _ => ⟨rfl, rfl⟩

theorem CommandForms.cellPause (tag : BitVec 16) (cell : Nat) :
    CommandForms.Statement (.cellPause tag cell) := fun _ => ⟨rfl, rfl⟩

theorem CommandForms.cellResume (tag : BitVec 16) (cell : Nat) :
    CommandForms.Statement (.cellResume tag cell) := fun _ => ⟨rfl, rfl⟩

theorem CommandForms.cellDown (tag : BitVec 16) (cell : Nat) :
    CommandForms.Statement (.cellDown tag cell) := fun _ => ⟨rfl, rfl⟩

theorem CommandForms.cellUp (tag : BitVec 16) (cell : Nat) :
    CommandForms.Statement (.cellUp tag cell) := fun _ => ⟨rfl, rfl⟩

theorem CommandForms.cellClear (tag : BitVec 16) (cell : Nat) :
    CommandForms.Statement (.cellClear tag cell) := fun _ => ⟨rfl, rfl⟩

theorem CommandForms.cellSitesOn (tag : BitVec 16) (cell sites : Nat) :
    CommandForms.Statement (.cellSitesOn tag cell sites) := fun _ => ⟨rfl, rfl⟩

theorem CommandForms.cellContactor (tag : BitVec 16) (cell : Nat) (limit : Option Nat) (resetCounter : Bool) :
    CommandForms.Statement (.cellContactor tag cell limit resetCounter) := fun _ => ⟨rfl, rfl⟩

theorem CommandForms.dispatchQuery (tag : BitVec 16) (start : Nat) :
    CommandForms.Statement (.dispatchQuery tag start) := fun _ => ⟨rfl, rfl⟩

theorem CommandForms.dispatchAging (tag : BitVec 16) (limit : Nat) :
    CommandForms.Statement (.dispatchAging tag limit) := fun _ => ⟨rfl, rfl⟩

theorem CommandForms.loadData (tag : BitVec 16) (cell : Byte) (offset : BitVec 24) (data : List Byte) :
    CommandForms.Statement (.loadData tag cell offset data) := fun _ => ⟨rfl, rfl⟩

theorem CommandForms.cellErrReset (tag : BitVec 16) (cell : Nat) :
    CommandForms.Statement (.cellErrReset tag cell) := fun _ => ⟨rfl, rfl⟩

theorem CommandForms.tallyQuery (tag : BitVec 16) (id : Text) :
    CommandForms.Statement (.tallyQuery tag id) := fun _ => ⟨rfl, rfl⟩

theorem CommandForms.baselineQuery (tag : BitVec 16) (code : Text) (step : Nat) :
    CommandForms.Statement (.baselineQuery tag code step) := fun _ => ⟨rfl, rfl⟩

theorem CommandForms.baselineSet (tag : BitVec 16) (code : Text) (step : Nat) (bin : Nat) (n : Nat) (mean : Nat) (deviation : Nat) :
    CommandForms.Statement (.baselineSet tag code step bin n mean deviation) := fun _ => ⟨rfl, rfl⟩

theorem CommandForms.qaResult (tag : BitVec 16) (id : Text) (outcome : Option QaOutcome) :
    CommandForms.Statement (.qaResult tag id outcome) := fun _ => ⟨rfl, rfl⟩

theorem CommandForms.shipOpen (tag : BitVec 16) (ship : Text) (code : Text) :
    CommandForms.Statement (.shipOpen tag ship code) := fun _ => ⟨rfl, rfl⟩

theorem CommandForms.shipAdd (tag : BitVec 16) (ship : Text) (lot : Text) :
    CommandForms.Statement (.shipAdd tag ship lot) := fun _ => ⟨rfl, rfl⟩

theorem CommandForms.shipRemove (tag : BitVec 16) (ship : Text) (lot : Text) :
    CommandForms.Statement (.shipRemove tag ship lot) := fun _ => ⟨rfl, rfl⟩

theorem CommandForms.shipCheck (tag : BitVec 16) (ship : Text) :
    CommandForms.Statement (.shipCheck tag ship) := fun _ => ⟨rfl, rfl⟩

theorem CommandForms.shipAccept (tag : BitVec 16) (ticket : Nat) :
    CommandForms.Statement (.shipAccept tag ticket) := fun _ => ⟨rfl, rfl⟩

theorem CommandForms.shipCancel (tag : BitVec 16) (ship : Text) :
    CommandForms.Statement (.shipCancel tag ship) := fun _ => ⟨rfl, rfl⟩

theorem CommandForms.shipQuery (tag : BitVec 16) (ship : Option Text) :
    CommandForms.Statement (.shipQuery tag ship) := fun _ => ⟨rfl, rfl⟩

theorem CommandForms.summaryQuery (tag : BitVec 16) (id : Text) (step : Nat) :
    CommandForms.Statement (.summaryQuery tag id step) := fun _ => ⟨rfl, rfl⟩

theorem CommandForms.identify (tag : BitVec 16) :
    CommandForms.Statement (.identify tag) := fun _ => ⟨rfl, rfl⟩

theorem CommandForms.setTime (tag : BitVec 16) (time : BitVec 32) :
    CommandForms.Statement (.setTime tag time) := fun _ => ⟨rfl, rfl⟩

theorem CommandForms.floorStatus (tag : BitVec 16) :
    CommandForms.Statement (.floorStatus tag) := fun _ => ⟨rfl, rfl⟩

theorem CommandForms.floorReset (tag : BitVec 16) :
    CommandForms.Statement (.floorReset tag) := fun _ => ⟨rfl, rfl⟩

theorem CommandForms.unknownKind (tag : BitVec 16) (fault : FrameFault) :
    CommandForms.Statement (.unknownKind tag fault) := fun _ => ⟨rfl, rfl⟩

theorem CommandForms.hostCandidateFail (bytes : List Byte) :
    CommandForms.Statement (.hostCandidateFail bytes) := fun _ => ⟨rfl, rfl⟩

theorem CommandForms.hostLineBreak :
    CommandForms.Statement (.hostLineBreak) := fun _ => ⟨rfl, rfl⟩

theorem CommandForms.hostFrameSent :
    CommandForms.Statement (.hostFrameSent) := fun _ => ⟨rfl, rfl⟩

theorem CommandForms.floorTimeTick :
    CommandForms.Statement (.floorTimeTick) := fun _ => ⟨rfl, rfl⟩

theorem CommandForms.coldReset (cause : ResetCause) (strap1 : Bool) (strap0 : Bool) :
    CommandForms.Statement (.coldReset cause strap1 strap0) := fun _ => ⟨rfl, rfl⟩

theorem CommandForms.hello (cell : CellId) (name : Text) (sites : Nat) (classes : ClassSet) (kit : Text) :
    CommandForms.Statement (.hello cell name sites classes kit) := fun _ => ⟨rfl, rfl⟩

theorem CommandForms.kit (cell : CellId) (code : Text) :
    CommandForms.Statement (.kit cell code) := fun _ => ⟨rfl, rfl⟩

theorem CommandForms.purged (cell : CellId) (count : BitVec 16) :
    CommandForms.Statement (.purged cell count) := fun _ => ⟨rfl, rfl⟩

theorem CommandForms.soakReached (cell : CellId) :
    CommandForms.Statement (.soakReached cell) := fun _ => ⟨rfl, rfl⟩

theorem CommandForms.status (cell : CellId) :
    CommandForms.Statement (.status cell) := fun _ => ⟨rfl, rfl⟩

theorem CommandForms.siteResult (cell : CellId) (body : List Byte) :
    CommandForms.Statement (.siteResult cell body) := fun _ => ⟨rfl, rfl⟩

theorem CommandForms.groupEnd (cell : CellId) (body : List Byte) :
    CommandForms.Statement (.groupEnd cell body) := fun _ => ⟨rfl, rfl⟩

theorem CommandForms.jam (cell : CellId) :
    CommandForms.Statement (.jam cell) := fun _ => ⟨rfl, rfl⟩

theorem CommandForms.jamClear (cell : CellId) :
    CommandForms.Statement (.jamClear cell) := fun _ => ⟨rfl, rfl⟩

theorem CommandForms.runEnd (cell : CellId) (tested : BitVec 16) (check : BitVec 16) :
    CommandForms.Statement (.runEnd cell tested check) := fun _ => ⟨rfl, rfl⟩

theorem CommandForms.blockAck (cell : CellId) (offset : BitVec 24) :
    CommandForms.Statement (.blockAck cell offset) := fun _ => ⟨rfl, rfl⟩

theorem CommandForms.blockNak (cell : CellId) (offset : BitVec 24) :
    CommandForms.Statement (.blockNak cell offset) := fun _ => ⟨rfl, rfl⟩

theorem CommandForms.imageCheck (cell : CellId) (check : BitVec 32) :
    CommandForms.Statement (.imageCheck cell check) := fun _ => ⟨rfl, rfl⟩

theorem CommandForms.malformed (cell : CellId) (kind : ControlKind) :
    CommandForms.Statement (.malformed cell kind) := fun _ => ⟨rfl, rfl⟩

theorem CommandForms.cellCandidateFail (cell : CellId) (bytes : List Byte) :
    CommandForms.Statement (.cellCandidateFail cell bytes) := fun _ => ⟨rfl, rfl⟩

theorem CommandForms.lineBreak (cell : CellId) :
    CommandForms.Statement (.lineBreak cell) := fun _ => ⟨rfl, rfl⟩

theorem CommandForms.silence (cell : CellId) :
    CommandForms.Statement (.silence cell) := fun _ => ⟨rfl, rfl⟩

theorem CommandForms.cellFrameSent (cell : CellId) :
    CommandForms.Statement (.cellFrameSent cell) := fun _ => ⟨rfl, rfl⟩

theorem CommandForms.intakeRecordTaken (cell : CellId) :
    CommandForms.Statement (.intakeRecordTaken cell) := fun _ => ⟨rfl, rfl⟩

theorem CommandForms.purgeTimeout (cell : CellId) :
    CommandForms.Statement (.purgeTimeout cell) := fun _ => ⟨rfl, rfl⟩

theorem CommandForms.soakTimeout (cell : CellId) :
    CommandForms.Statement (.soakTimeout cell) := fun _ => ⟨rfl, rfl⟩

theorem CommandForms.dwellExpiry (cell : CellId) :
    CommandForms.Statement (.dwellExpiry cell) := fun _ => ⟨rfl, rfl⟩

theorem CommandForms.dataTimeout (cell : CellId) (offset : Nat) :
    CommandForms.Statement (.dataTimeout cell offset) := fun _ => ⟨rfl, rfl⟩

theorem CommandForms.ackTimeout (cell : CellId) (offset : Nat) :
    CommandForms.Statement (.ackTimeout cell offset) := fun _ => ⟨rfl, rfl⟩

theorem CommandForms.checkTimeout (cell : CellId) :
    CommandForms.Statement (.checkTimeout cell) := fun _ => ⟨rfl, rfl⟩

end Sys2Proof.Laws
end

