-- ==== Sys2Proof/Laws/Rounds.lean ====
section
/-! SUPPORT. When an offer round does nothing (R79), what the waiting mark then becomes (R48, R74), and how record updates, frames and
reports pass each other. -/

namespace Sys2Proof.Machine

open Sys2Proof

/-! ### Rounds that make no offer -/

/-- With an empty wait list no entry wins (R76). -/
theorem winner_empty {s : State} (h : s.waitList = []) (c : CellId) : winner s c = none := by
  simp [winner, bandCandidates, h]

/-- With an empty wait list an offer changes nothing. -/
theorem offer_empty {rnd : Round} {s : State} (h : s.waitList = []) (c : CellId) : offer rnd c s = s := by
  simp [offer, winner_empty h c]

/-- A fold whose every step leaves a state alone leaves it alone. -/
theorem foldl_same {α : Type} (f : State → α → State) (s : State) (l : List α) (h : ∀ a, f s a = s) : l.foldl f s = s := by
  induction l with
  | nil => rfl
  | cons a l ih => rw [List.foldl_cons, h a, ih]

/-- A round over an empty wait list changes nothing (R79). -/
theorem offerRound_empty {s : State} (h : s.waitList = []) : offerRound s = s := by
  unfold offerRound offerRoundWith
  refine foldl_same _ _ _ fun c => ?_
  rw [offer_empty h c, ite_self]

/-- A round while no cell waits changes nothing (R79). -/
theorem offerRound_quiet {s : State} (h : s.noCellWaits) : offerRound s = s := by
  unfold offerRound offerRoundWith
  refine foldl_same _ _ _ fun c => ?_
  rw [h c]
  simp

/-- Setting a waiting mark to the value it has changes nothing. -/
theorem setWaiting_self {s : State} {c : CellId} {b : Bool} (h : s.waiting.get c = b) : setWaiting c b s = s := by
  subst h
  unfold setWaiting
  congr 1
  rw [Vector.get_eq_getElem]
  exact Vector.set_getElem_self _

/-- A cell that is not waiting loses its mark and no round runs (R74). -/
theorem updateWaiting_not {rnd : Round} {s : State} {c : CellId} (h : (s.cell c).waits = false) :
    updateWaiting rnd c s = setWaiting c false s := by
  simp [updateWaiting, h]

/-- Without a round, the mark becomes what the cell's record gives (R48). -/
theorem updateWaiting_id (s : State) (c : CellId) : updateWaiting id c s = setWaiting c (s.cell c).waits s := by
  unfold updateWaiting
  by_cases h : (s.cell c).waits = true
  · rw [if_pos h, h]
    by_cases hw : s.waiting.get c = true
    · rw [if_pos hw, setWaiting_self hw]
    · rw [if_neg hw]; rfl
  · rw [if_neg h, Bool.eq_false_of_not_eq_true h]

/-- With an empty wait list the mark becomes what the cell's record gives, and the round finds nothing (R48, R79). -/
theorem updateWaiting_empty {s : State} (h : s.waitList = []) (c : CellId) :
    updateWaiting offerRound c s = setWaiting c (s.cell c).waits s := by
  rw [← updateWaiting_id]
  unfold updateWaiting
  by_cases hc : (s.cell c).waits = true
  · rw [if_pos hc, if_pos hc, offerRound_empty (s := setWaiting c true s) h]; rfl
  · rw [if_neg hc, if_neg hc]

/-- A cell that neither idles nor runs is not waiting (R48). -/
theorem waits_of_state {x : Cell} (h1 : x.state ≠ .idle) (h2 : x.state ≠ .running) : x.waits = false := by
  have e1 : (x.state == .idle) = false := by simpa using h1
  have e2 : (x.state == .running) = false := by simpa using h2
  simp [Cell.waits, e1, e2]

/-- A cell with an empty pending slot has no portion to return (R83). -/
theorem returnPending_none {rnd : Round} {s : State} {c : CellId} (h : (s.cell c).pendingSlot = none) : returnPending rnd c s = s := by
  simp [returnPending, h]

/-- No load is active, so none fails (R101). -/
theorem failLoad_idle {s : State} {c : CellId} {e : LoadError} (h : (s.load c).active = false) : failLoad c e s = s := by
  simp [failLoad, h]

/-- An abort with no load active changes nothing (R102). -/
theorem abortLoad_idle {s : State} {c : CellId} (h : (s.load c).active = false) : abortLoad c s = s := by
  simp [abortLoad, h]

/-! ### A record update done twice, and a state set -/

theorem modCell_eq (c : CellId) (f : Cell → Cell) (s : State) : modCell c f s = s.setCell c (f (s.cell c)) := rfl

@[simp] theorem setCell_setCell (s : State) (c : CellId) (x y : Cell) : (s.setCell c x).setCell c y = s.setCell c y := by
  unfold State.setCell
  simp [Vector.set_set]

@[simp] theorem modPort_modPort (c : CellId) (f g : Port → Port) (s : State) :
    modPort c f (modPort c g s) = modPort c (fun p => f (g p)) s := by
  unfold modPort State.port
  simp [Vector.set_set, Vector.get_eq_getElem]

@[simp] theorem setWaiting_setWaiting (c : CellId) (a b : Bool) (s : State) :
    setWaiting c a (setWaiting c b s) = setWaiting c a s := by
  unfold setWaiting
  simp [Vector.set_set]

/-- A change to another state: the record, then the report with the set and the fault code as they stand (R44). -/
theorem setCellState_ne {s : State} {c : CellId} {st : CellState} (h : (s.cell c).state ≠ st) :
    setCellState c st s = raise (.cellState c (s.cell c).state st (s.cell c).pause (s.cell c).fault)
      (s.setCell c { s.cell c with state := st }) := by
  unfold setCellState
  rw [if_neg h]
  rfl

/-- A state set to the one it has changes nothing. -/
theorem setCellState_same {s : State} {c : CellId} {st : CellState} (h : (s.cell c).state = st) : setCellState c st s = s := by
  unfold setCellState
  rw [if_pos h]

/-! ### Reports, frames and record updates pass each other -/

/-- The Host Link Unit with a report joined or counted (R179). -/
def HostLink.joined (r : Report) (time : Nat) (h : HostLink) : HostLink :=
  if h.reports.length < 64 then { h with reports := h.reports ++ [⟨time, r⟩] } else { h with lostReports := satInc 255 h.lostReports }

/-- A report changes the Host Link Unit alone (R179). -/
theorem raise_eq (r : Report) (s : State) : raise r s = { s with host := s.host.joined r s.floorTime } := by
  unfold raise HostLink.joined
  split <;> rfl

theorem raise_setCell (r : Report) (s : State) (c : CellId) (x : Cell) : raise r (s.setCell c x) = (raise r s).setCell c x := by
  rw [raise_eq, raise_eq]; rfl

theorem raise_modPort (r : Report) (s : State) (c : CellId) (f : Port → Port) :
    raise r (modPort c f s) = modPort c f (raise r s) := by
  rw [raise_eq, raise_eq]; rfl

theorem raise_setWaiting (r : Report) (s : State) (c : CellId) (b : Bool) :
    raise r (setWaiting c b s) = setWaiting c b (raise r s) := by
  rw [raise_eq, raise_eq]; rfl

theorem modPort_setCell (s : State) (c d : CellId) (x : Cell) (f : Port → Port) :
    modPort d f (s.setCell c x) = (modPort d f s).setCell c x := rfl

theorem setWaiting_setCell (s : State) (c d : CellId) (x : Cell) (b : Bool) :
    setWaiting d b (s.setCell c x) = (setWaiting d b s).setCell c x := rfl

theorem setWaiting_modPort (s : State) (c d : CellId) (f : Port → Port) (b : Bool) :
    setWaiting d b (modPort c f s) = modPort c f (setWaiting d b s) := rfl

theorem setRunGroups_setCell (s : State) (c d : CellId) (x : Cell) (n : Nat) :
    setRunGroups d n (s.setCell c x) = (setRunGroups d n s).setCell c x := rfl

/-- A frame handed to a port passes a change of a cell's record that keeps the link as it is (R110). -/
theorem sendFrame_setCell (c d : CellId) (f : PartFrame) (s : State) (x : Cell) (h : x.linkUp = (s.cell d).linkUp) :
    sendFrame c f (s.setCell d x) = (sendFrame c f s).setCell d x := by
  have hl : ((s.setCell d x).cell c).linkUp = (s.cell c).linkUp := by
    rw [setCell_cell]
    split
    · next e => subst e; exact h
    · rfl
  unfold sendFrame
  rw [hl]
  simp only [setCell_port, modPort_setCell, raise_setCell]
  split
  · split
    · rfl
    · split <;> rfl
  · rfl

@[simp] theorem sendFrame_cell (c d : CellId) (f : PartFrame) (s : State) : (sendFrame c f s).cell d = s.cell d := by
  unfold sendFrame
  split
  · split
    · rfl
    · split
      · rfl
      · simp
  · rfl

@[simp] theorem sendFrame_waitList (c : CellId) (f : PartFrame) (s : State) : (sendFrame c f s).waitList = s.waitList := by
  unfold sendFrame
  split
  · split
    · rfl
    · split
      · rfl
      · simp
  · rfl

@[simp] theorem sendFrame_waiting (c : CellId) (f : PartFrame) (s : State) : (sendFrame c f s).waiting = s.waiting := by
  unfold sendFrame
  split
  · split
    · rfl
    · split
      · rfl
      · simp
  · rfl

/-! ### The state an owner is handed -/

@[simp] theorem proved_cell (s : State) (c : CellId) : s.proved.cell c = s.cell c := rfl
@[simp] theorem proved_port (s : State) (c : CellId) : s.proved.port c = s.port c := rfl
@[simp] theorem proved_load (s : State) (c : CellId) : s.proved.load c = s.load c := rfl
@[simp] theorem proved_lot (s : State) (x : LotSlot) : s.proved.lot x = s.lot x := rfl
@[simp] theorem proved_waitList (s : State) : s.proved.waitList = s.waitList := rfl
@[simp] theorem proved_waiting (s : State) : s.proved.waiting = s.waiting := rfl

theorem proved_raise (r : Report) (s : State) : raise r s.proved = (raise r s).proved := by
  unfold raise
  by_cases h : s.host.reports.length < 64
  · rw [if_pos h, if_pos (show s.proved.host.reports.length < 64 from h)]; rfl
  · rw [if_neg h, if_neg (show ¬ s.proved.host.reports.length < 64 from h)]; rfl

theorem proved_modPort (c : CellId) (f : Port → Port) (s : State) : modPort c f s.proved = (modPort c f s).proved := rfl
theorem proved_setCell (c : CellId) (x : Cell) (s : State) : s.proved.setCell c x = (s.setCell c x).proved := rfl
theorem proved_modCell (c : CellId) (f : Cell → Cell) (s : State) : modCell c f s.proved = (modCell c f s).proved := rfl
theorem proved_setWaiting (c : CellId) (b : Bool) (s : State) : setWaiting c b s.proved = (setWaiting c b s).proved := rfl
theorem proved_setRunGroups (c : CellId) (n : Nat) (s : State) : setRunGroups c n s.proved = (setRunGroups c n s).proved := rfl

theorem proved_sendFrame (c : CellId) (f : PartFrame) (s : State) : sendFrame c f s.proved = (sendFrame c f s).proved := by
  unfold sendFrame
  simp only [proved_cell, proved_port, proved_modPort, proved_raise]
  split
  · split
    · rfl
    · split <;> rfl
  · rfl

/-- A request whose owner answers, said of the state before the frame was proved (R174 to R177). -/
theorem takeRequest_proved {tag : BitVec 16} {k : RequestKind} {own : Owner} {s u : State} {a : Answer}
    (h : s.takes tag) (ho : own s.proved = (u.proved, a)) : takeRequest tag k own s = u.answered tag k a :=
  (takeRequest_taken h ho rfl).trans (proved_answered u tag k a)

end Sys2Proof.Machine
end

