-- ==== Sys2Proof/Laws/Summaries.lean ====
section
/-! SUPPORT. Every write of the step summaries leaves each of them under its step index (R155). -/

namespace Sys2Proof.Machine

open Sys2Proof

/-- A summary is found at its place: the step index less 1. -/
theorem summary_eq (s : State) (x : LotSlot) (k : Nat) :
    s.summary x k = if h : 1 ≤ k ∧ k ≤ 4 then (s.summaries.get x)[k - 1]'(by omega) else none := by
  unfold State.summary
  by_cases h0 : k = 0
  · simp [h0]
  · by_cases h4 : k ≤ 4
    · have hk : k - 1 < 4 := by omega
      rw [if_neg h0, dif_pos ⟨by omega, h4⟩, List.getD_eq_getElem _ _ (by simpa using hk), Vector.getElem_toList]
    · rw [if_neg h0, dif_neg (by omega), List.getD_eq_default]
      simp; omega

/-- No summary of a state without summaries is out of its place. -/
theorem summariesPlaced_of_none {s : State} (h : s.summaries = Vector.replicate 128 (Vector.replicate 4 none)) : s.summariesPlaced := by
  intro x k u hu
  rw [summary_eq, h] at hu
  split at hu
  · simp [Vector.get_eq_getElem] at hu
  · cases hu

/-- Storing a summary keeps every summary in its place. -/
theorem setSummary_placed {s : State} (x : LotSlot) (m : Summary) (h : s.summariesPlaced) : (setSummary x m s).summariesPlaced := by
  intro y k u hu
  unfold setSummary at hu
  split at hu
  · rename_i hm
    rw [summary_eq] at hu
    split at hu
    · rename_i hk
      rw [get_set] at hu
      split at hu
      · rename_i hxy
        rw [Vector.getElem_set] at hu
        split at hu
        · cases hu; omega
        · subst hxy
          exact h x k u (by rw [summary_eq, dif_pos hk]; exact hu)
      · exact h y k u (by rw [summary_eq, dif_pos hk]; exact hu)
    · cases hu
  · exact h y k u hu

/-- Discarding the summaries of a lot keeps every other summary in its place. -/
theorem noSummaries_placed {s : State} (x : LotSlot) (h : s.summariesPlaced) :
    ({ s with summaries := s.summaries.set x.val (Vector.replicate 4 none) x.isLt } : State).summariesPlaced := by
  intro y k u hu
  rw [summary_eq] at hu
  split at hu
  · rename_i hk
    rw [get_set] at hu
    split at hu
    · simp at hu
    · exact h y k u (by rw [summary_eq, dif_pos hk]; exact hu)
  · cases hu

end Sys2Proof.Machine
end

