-- ==== Sys2Proof/Tests/Slice0.lean ====
section
/-! SUPPORT. Small tests: ill-formed commands that WellFormed refuses, values worked out in the manual, single steps, and for every
obligation with hypotheses a state and operands that meet them. -/

namespace Sys2Proof.Tests

open Sys2Proof Sys2Proof.Machine

set_option Elab.async false

/-! ### A small floor: one product of one step, one catalog entry, one lot, one cell -/

/-- The text A. -/
def nameA : Text := [0x41]
/-- The text B. -/
def nameB : Text := [0x42]
/-- A text of that many letters. -/
def letters (n : Nat) : Text := List.replicate n 0x41

/-- A step that monitors bin 2. -/
def stepA : StepRec :=
  ⟨.room, nameA, 1, nameA, 1, 60, 0, 0b110, ⟨900000, .unmasked, 100, 0, [⟨2, 50000, 1000, .learned, 16, .masked⟩]⟩⟩

/-- A product of that step. -/
def productA : Product := ⟨nameA, [stepA], 0, 1⟩

/-- The catalog entry of its program. -/
def entryA : CatEntry := ⟨nameA, 1, 300, 0, .approved⟩

/-- A portion of 10 units in a state, with some remaining and the others in a handler. -/
def portionA (st : PortionState) (r h : Nat) : Portion := ⟨1, st, 10, 10 - r - h, r, 0, h, some 1, [1], 0, none, none, 0⟩

/-- A lot in a state with one portion. -/
def lotA (st : LotState) (route : RoutePos) (holds : List Hold) (p : Portion) : Lot :=
  ⟨nameA, 0, 1, 10, 0, 1, route, false, st, holds, true, false, 0, 0, 0, [p]⟩

/-- A cell of four sites with the step's kit and program in it. -/
def cellA (st : CellState) : Cell :=
  { Cell.reset with
    configured := true, stationName := some nameA, linkUp := true, siteCount := some 4, classes := some 7, kit := some nameA,
    program := some ⟨nameA, 1⟩, state := st }

/-- The cell with the lot's portion in its current slot. -/
def cellW (st : CellState) (started : Bool) : Cell := { cellA st with current := some ⟨0, 1⟩, runStarted := started }

/-- The floor with a lot in slot 0 and a record for cell 0. -/
def floorA (l : Option Lot) (x : Cell) : State :=
  { State.reset with
    products := State.reset.products.set 0 (some productA), catalog := [entryA], lots := State.reset.lots.set 0 l,
    cells := State.reset.cells.set 0 x }

/-- The lot at work on cell 0. -/
def workA (r h : Nat) : Option Lot := some (lotA .active .stepOpen [] (portionA (.atCell 0) r h))

/-- A lot that waits with its portion queued. -/
def lotW (holds : List Hold) : Lot := lotA (if holds = [] then .waiting else .parked) .stepOpen holds (portionA .queued 10 0)

/-- A hold record of a reason at step 1. -/
def holdA (r : HoldReason) : Hold := ⟨r, 0, 1, 1, 0, 0⟩

/-- The floor with the product DEFINED and no lot. -/
def floorD : State :=
  { floorA none (cellA .offline) with products := State.reset.products.set 0 (some { productA with live := 0 }) }

/-- Counts with eight good units and two in bin 2. -/
def countsA : Counts := (Counts.zero.set 0 8).set 1 2

/-- The summary of a step whose first pass tested those units. -/
def summaryA : Summary :=
  ⟨1, nameA, 0b110, 10, countsA, 10, 0, false, 0, Counts.zero, 0, 0, countsA, 8, [1], none, Vector.replicate 16 none, ⟨false, 0⟩,
    false, false⟩

/-- Cell 0 LOADING for its portion, which no run of it has tested, in a lot with those holds, its load of revision 1 active with a want
at offset 0 and the buffer of that want. -/
def floorB (holds : List Hold) : State :=
  { modLoad 0 (fun _ => { startedLoad ⟨nameA, 1⟩ entryA with nextWant := 256, wants := [0] })
      (floorA (some (lotA .active .stepOpen holds (portionA (.atCell 0) 10 0))) { cellW .loading false with program := none }) with
    buffers := State.reset.buffers.set 0 (.reserved 0 0) }

/-- A shipment of the lot in slot 0. -/
def shipA (st : ShipState) (ticket : Option Nat) : Shipment := ⟨nameB, 0, st, [0], 0, ticket⟩

/-- The floor with a lot that has its summary, in a shipment. -/
def floorQ (l : Lot) (h : Option Shipment) : State :=
  setSummary 0 summaryA { floorA (some l) (cellA .offline) with ships := State.reset.ships.set 0 h }

/-- A lot at the end of its route. -/
def lotC (st : LotState) : Lot := lotA st .routeEnd [] ⟨1, .done, 10, 10, 0, 0, 0, some 1, [1], 1, some 0, some 0, 0⟩

/-- A ticket of a number. -/
def ticketA (n : Nat) : Ticket := ⟨n, nameB, nameA, 1, 8, 0⟩

/-- A part whose reply queue holds that many full replies, then that many busy entries. -/
def queued (full busy : Nat) : State :=
  { State.reset with host := { State.reset.host with
    replies := List.replicate full (.full 1 (.request .identify) (okWith .none)) ++ List.replicate busy (.busy 1 (.request .identify)) } }

/-- That many reports. -/
def reports (n : Nat) : List QueuedReport := List.replicate n ⟨0, .maintenance 0 0 0⟩

/-- What a step answers, tested. -/
def gives (o : Host.Outcome State Fault Refusal) (p : State → Bool) : Bool :=
  match o with | .next t => p t | .fault _ => false | .refused _ => false

/-! ### Ill-formed commands -/

/-- The step of a request that fits. -/
def stepReqA : StepReq := ⟨1, nameA, 1, nameA, 1, 59, 1801, 0b110, 900000, 0, 100, 0, [⟨2, 50000, 1000, some .learned, 33, 1⟩]⟩

/-- A request that fits. -/
def productReqA : ProductReq := ⟨nameA, 1, [stepReqA], 0⟩

theorem test_wellFormed_product :
    (Instr.productDefine 1 productReqA).wellFormed
    ∧ [Instr.productDefine 1 { productReqA with code := letters 11 }, .productDefine 1 { productReqA with routeLength := 256 },
      .productDefine 1 { productReqA with steps := List.replicate 256 stepReqA }, .productDefine 1 { productReqA with qaSample := 65536 },
      .productDelete 1 (letters 11), .productQuery 1 (letters 11), .limitMask 1 (letters 11) 1 .yield 0,
      .limitMask 1 nameA 256 .yield 0, .limitMask 1 nameA 1 (.bin 256) 0, .productRevise 1 (letters 11) 1 1,
      .productRevise 1 nameA 256 1, .productRevise 1 nameA 1 65536].all (fun i => !i.wellFormed) := by decide +kernel

theorem test_wellFormed_step :
    [{ stepReqA with program := letters 17 }, { stepReqA with revision := 65536 }, { stepReqA with kit := letters 9 },
      { stepReqA with minSites := 256 }, { stepReqA with soakTimeout := 65536 }, { stepReqA with dwell := 65536 },
      { stepReqA with yieldFloor := 4294967296 }, { stepReqA with minSample := 65536 }, { stepReqA with consecFail := 256 },
      { stepReqA with entries := List.replicate 256 ⟨2, 0, 0, none, 0, 0⟩ }, { stepReqA with entries := [⟨256, 0, 0, none, 0, 0⟩] },
      { stepReqA with entries := [⟨2, 4294967296, 0, none, 0, 0⟩] }, { stepReqA with entries := [⟨2, 0, 4294967296, none, 0, 0⟩] },
      { stepReqA with entries := [⟨2, 0, 0, none, 256, 0⟩] }].all fun s =>
        !(Instr.productDefine 1 { productReqA with steps := [s] }).wellFormed := by decide +kernel

theorem test_wellFormed_catalog :
    [Instr.catalogAdd 1 (letters 17) 1 1 0, .catalogAdd 1 nameA 65536 1 0, .catalogAdd 1 nameA 1 16777216 0,
      .catalogState 1 (letters 17) 1 none, .catalogState 1 nameA 65536 none, .catalogRemove 1 (letters 17) 1, .catalogRemove 1 nameA 65536,
      .catalogQuery 1 (some ⟨letters 17, 1⟩), .catalogQuery 1 (some ⟨nameA, 65536⟩)].all (fun i => !i.wellFormed) := by decide +kernel

/-- A lot context record that fits. -/
def contextA : LotContext :=
  ⟨nameA, 0, nameA, [nameA], 1, 10, 0, 1, .stepOpen, false, .waiting, [], true, false, 0, 0, [portionA .queued 10 0], [], LotStepRec.empty, false⟩

theorem test_wellFormed_lots :
    (Instr.lotImport 1 (some contextA)).wellFormed ∧ (Instr.lotImport 1 none).wellFormed
    ∧ [Instr.lotRegister 1 (letters 17) nameA 1 1 0, .lotRegister 1 nameA (letters 11) 1 1 0, .lotRegister 1 nameA nameA 256 1 0,
      .lotRegister 1 nameA nameA 1 65536 0, .lotRegister 1 nameA nameA 1 1 65536, .lotDispose 1 (letters 17) none none,
      .lotHold 1 (letters 17), .lotPriority 1 (letters 17) 1, .lotPriority 1 nameA 256, .lotQuery 1 (letters 17), .lotDelete 1 (letters 17),
      .lotExport 1 (letters 17), .lotImport 1 (some { contextA with id := letters 17 }), .lotImport 1 (some { contextA with product := 256 }),
      .lotImport 1 (some { contextA with productCode := letters 11 }),
      .lotImport 1 (some { contextA with routePrograms := [letters 17] }), .lotImport 1 (some { contextA with priority := 256 }),
      .lotImport 1 (some { contextA with startQty := 65536 }), .lotImport 1 (some { contextA with split := 65536 }),
      .lotImport 1 (some { contextA with stepIndex := 256 }), .lotImport 1 (some { contextA with stepReady := 4294967296 }),
      .lotImport 1 (some { contextA with regTime := 4294967296 })].all (fun i => !i.wellFormed) := by decide +kernel

theorem test_wellFormed_cells :
    [Instr.cellConfigure 1 256 nameA 0 0 0 0, .cellConfigure 1 0 (letters 17) 0 0 0 0, .cellConfigure 1 0 nameA 4294967296 0 0 0,
      .cellConfigure 1 0 nameA 0 4294967296 0 0, .cellConfigure 1 0 nameA 0 0 4294967296 0, .cellConfigure 1 0 nameA 0 0 0 65536,
      .cellQuery 1 256, .cellPause 1 256, .cellResume 1 256, .cellDown 1 256, .cellUp 1 256, .cellClear 1 256, .cellSitesOn 1 256 0,
      .cellSitesOn 1 0 256, .cellContactor 1 256 none false,
      .cellContactor 1 0 (some 4294967296) false, .dispatchQuery 1 256, .dispatchAging 1 256, .loadData 1 0 0 (List.replicate 1197 0), .cellErrReset 1 256].all (fun i => !i.wellFormed) := by decide +kernel

theorem test_wellFormed_tally_and_shipments :
    [Instr.tallyQuery 1 (letters 17), .baselineQuery 1 (letters 11) 0, .baselineQuery 1 nameA 256, .baselineSet 1 (letters 11) 1 2 0 0 0,
      .baselineSet 1 nameA 256 2 0 0 0, .baselineSet 1 nameA 1 256 0 0 0, .baselineSet 1 nameA 1 2 65536 0 0,
      .baselineSet 1 nameA 1 2 0 4294967296 0, .baselineSet 1 nameA 1 2 0 0 4294967296, .qaResult 1 (letters 17) none,
      .shipOpen 1 (letters 17) nameA, .shipOpen 1 nameA (letters 11), .shipAdd 1 (letters 17) nameA, .shipAdd 1 nameA (letters 17),
      .shipRemove 1 (letters 17) nameA, .shipRemove 1 nameA (letters 17), .shipCheck 1 (letters 17), .shipAccept 1 65536,
      .shipCancel 1 (letters 17), .shipQuery 1 (some (letters 17)), .summaryQuery 1 (letters 17) 1, .summaryQuery 1 nameA 256].all
        (fun i => !i.wellFormed) := by decide +kernel

theorem test_wellFormed_events :
    [Instr.hostCandidateFail (List.replicate 1209 0), .hello 0 (letters 17) 1 7 [], .hello 0 nameA 256 7 [],
      .hello 0 nameA 1 7 (letters 283), .kit 0 (letters 301), .siteResult 0 (List.replicate 301 0), .groupEnd 0 (List.replicate 301 0),
      .cellCandidateFail 0 (List.replicate 307 0), .dataTimeout 0 16777216, .ackTimeout 0 16777216].all
        (fun i => !i.wellFormed) := by decide +kernel

/-! ### Values worked out in the manual -/

/-- The check values of R106 and R99 for the characters 1 to 9. -/
theorem test_check_values :
    crc16 [0x31, 0x32, 0x33, 0x34, 0x35, 0x36, 0x37, 0x38, 0x39] = 0x29B1
    ∧ crc32Final (crc32From crc32Init [0x31, 0x32, 0x33, 0x34, 0x35, 0x36, 0x37, 0x38, 0x39]) = 0xCBF43926 := by decide +kernel

/-- R22's table of portion sizes. -/
theorem test_portion_sizes :
    portionSizes 600 8 1800 = [600, 600, 600] ∧ portionSizes 300 8 1000 = [300, 300, 300, 100]
    ∧ portionSizes 500 8 5000 = List.replicate 8 625 ∧ portionSizes 1 8 9 = [2, 2, 2, 2, 1] ∧ portionSizes 0 8 700 = [700]
    ∧ portionSizes 10 4 37 = [10, 10, 10, 7] ∧ portionSizes 10 4 50 = [13, 13, 13, 11] := by decide +kernel

/-- R129's table of fractions. -/
theorem test_fractions :
    fraction 0 1 = 0 ∧ fraction 1 1 = 1000000 ∧ fraction 1 3 = 333333 ∧ fraction 2 3 = 666667 ∧ fraction 1 128 = 7813
    ∧ fraction 1 65535 = 15 ∧ fraction 65535 65535 = 1000000 := by decide +kernel

/-- Rows of R132's table of effective ceilings. -/
theorem test_effective_ceilings :
    effectiveCeiling ⟨2, 8000, 2000, .learned, 12, .unmasked⟩ ⟨4, 3200, 900⟩ = 8000
    ∧ effectiveCeiling ⟨2, 8000, 2000, .learned, 12, .unmasked⟩ ⟨12, 3200, 900⟩ = 5900
    ∧ effectiveCeiling ⟨2, 8000, 2000, .learned, 5, .unmasked⟩ ⟨6, 3000, 901⟩ = 4127
    ∧ effectiveCeiling ⟨2, 8000, 2000, .learned, 4, .unmasked⟩ ⟨20, 1000, 100⟩ = 2000
    ∧ effectiveCeiling ⟨2, 1000000, 0, .learned, 32, .unmasked⟩ ⟨30, 900000, 100000⟩ = 1000000 := by decide +kernel

/-- R148's table of rounded quotients. -/
theorem test_rounded_quotients :
    rndDiv 900 8 = 113 ∧ rndDiv (-2200) 8 = -275 ∧ rndDiv 1300 8 = 163 ∧ rndDiv (-668) 8 = -84 ∧ rndDiv 200 3 = 67
    ∧ rndDiv (-1) 2 = -1 := by decide +kernel

/-- The two updates of Chapter 11.4, and a first one (R149). -/
theorem test_baseline_updates :
    updateBaseline ⟨8, 7000, 600⟩ 7937 = ⟨9, 7117, 642⟩ ∧ updateBaseline ⟨9, 7117, 642⟩ 6250 = ⟨10, 7009, 670⟩
    ∧ updateBaseline ⟨0, 0, 0⟩ 500 = ⟨1, 500, 0⟩ := by decide +kernel

/-- A whole frame is proved and a damaged one fails (R107). -/
theorem test_candidates :
    judgeCell ((cellFrame 0x43 [1, 2]).tail ++ [9]) = .proved [0x43, 1, 2] [9]
    ∧ judgeCell ((cellFrame 0x43 [1, 2]).tail.set 3 7) = .failed ∧ judgeCell [0x01, 0x2D] = .failed
    ∧ judgeCell [0x01, 0x2C] = .incomplete ∧ judgeHost [0x04, 0xB1] = .failed ∧ judgeHost [0x04, 0xB0] = .incomplete := by decide +kernel

/-- Two candidates in a row fail and are both counted, and a byte that begins no frame sends a receiver hunting (R107, R173). -/
theorem test_scan :
    receiveHost Receiver.between [0xA5, 0xFF, 0xFF, 0xA5, 0xFF, 0xFF, 0x00] = (Receiver.hunting, 2)
    ∧ receiveCell Receiver.between [0x00] = (Receiver.hunting, 0)
    ∧ receiveCell Receiver.between [0x5A, 0x00] = (⟨true, some [0x00]⟩, 0)
    ∧ receiveHost ⟨false, some [0xFF]⟩ ([0xFF] ++ hostFrame 0x30 1 [7]) = (Receiver.between, 1) := by decide +kernel

/-- Text fields as R186 has them read: a name, one with a pad byte that is not 00 hex, one without a character. -/
theorem test_read_text :
    readFixedText [0x41, 0x2D, 0, 0] = .value [0x41, 0x2D] ∧ readFixedText [0x41, 0, 1, 0] = .unusedBit
    ∧ readFixedText [0, 0, 0, 0] = .outOfRange ∧ readFixedText [0x61, 0, 0, 0] = .outOfRange := by decide +kernel

/-- The table gives no row bits: no word spells a command. -/
theorem test_no_word_spells_a_command : decodeTableWord 16 0 = none ∧ State.reset.withFetchWord 16 0 = State.reset := ⟨rfl, rfl⟩

/-! ### Single steps -/

/-- A registered lot waits in the lowest slot with its whole quantity remaining (R21, R22). -/
theorem test_lotRegister :
    gives (exec (.lotRegister 1 nameB nameA 3 10 0) floorD) (fun t =>
      (t.lot 0).map (fun l => (l.state, l.priority, l.portions.map fun p => (p.number, p.q, p.r))) = some (.waiting, 3, [(1, 10, 10)])
      && t.waitList = [⟨0, 3, 0, 0⟩] && t.regCounter = 1) := by decide +kernel

/-- START moves R into H (R24) and carries the enabled sites (R50). -/
theorem test_dwellExpiry_starts :
    gives (exec (.dwellExpiry 0) (floorA (workA 10 0) { cellW .soaking false with dwellTimer := some 5 })) (fun t =>
      (t.port 0).tx = some (.start nameA 1 1 10 0b1111 1) && (t.cell 0).state = .running
      && (t.lot 0).map (fun l => l.portions.map fun p => (p.r, p.h)) = some [(0, 10)]) := by decide +kernel

/-- A purge count above H counts as H, with a COUNT hold (R25). -/
theorem test_purged_above_handler :
    gives (exec (.purged 0 9) (floorA (workA 2 5) (cellW .purging true))) (fun t =>
      (t.lot 0).map (fun l => (l.portions.map (fun p => (p.r, p.l, p.h)), l.holds.map (·.reason))) = some ([(7, 0, 0)], [.count])) := by
  decide +kernel

/-- A registered lot is offered at once to the waiting cell that can take it, and its soak begins (R71, R77, R49). -/
theorem test_register_places :
    gives (exec (.lotRegister 1 nameB nameA 3 10 0) { floorD with
        cells := State.reset.cells.set 0 { cellA .idle with cleared := true }, waiting := State.reset.waiting.set 0 true }) (fun t =>
      (t.lot 0).map (fun l => (l.state, l.portions.map (·.state))) = some (.active, [.atCell 0]) && t.waitList = []
      && (t.cell 0).state = .soaking && (t.port 0).tx = some (.soak .room) && t.pointer = 1) := by decide +kernel

/-- The ticket counter wraps from 65,535 to 1 and past a number still held (R165). -/
theorem test_ticket_counter_wraps :
    gives (exec (.shipCheck 1 nameB) { floorQ (lotC .complete) (some (shipA .open none)) with
        tickets := [ticketA 1], ticketCounter := 65535 }) (fun t =>
      t.tickets.map (fun v => (v.number, v.lots, v.total)) = [(1, 1, 8), (65535, 1, 8)] && t.ticketCounter = 2
      && (t.lot 0).map (·.state) = some .released) := by decide +kernel

/-- A contactor limit below 1,000 is taken as 1,000, and 0 turns the check off (R66). -/
theorem test_contactor_limit :
    gives (exec (.cellContactor 1 0 (some 999) false) (floorA none { cellA .idle with lifetime := 1000 })) (fun t =>
      (t.cell 0).contactorLimit = 1000 && (t.cell 0).maintenanceDue)
    ∧ gives (exec (.cellContactor 1 0 (some 0) false) (floorA none { cellA .idle with lifetime := 1000, contactorLimit := 1000, maintenanceDue := true }))
      (fun t => (t.cell 0).contactorLimit = 0 && !(t.cell 0).maintenanceDue) := by decide +kernel

/-- A reset pulse of 10 microseconds resets the part, one below 1 microsecond does not (R190). -/
theorem test_reset_pulses :
    gives (exec (.coldReset (.resetPin 10000) true true) floorD) (fun t => t.host.speed = 2000000 && t.catalog = [])
    ∧ gives (exec (.coldReset (.resetPin 999) true true) floorD) (fun t => t.catalog = [entryA]) := by decide +kernel

/-- A queue with nothing in it idles; the command at its front is carried out. -/
theorem test_step_front :
    step State.reset = .next State.reset
    ∧ gives (step { State.reset with pending := [.setTime 1 77, .floorTimeTick] }) (fun t =>
      t.floorTime = 77 && t.pending = [.floorTimeTick]) := ⟨rfl, by decide +kernel⟩

/-! ### Hypotheses met: the host link -/

theorem test_meets_StepTakesTheFrontCommand :
    { State.reset with pending := [.identify 1] }.pending = .identify 1 :: [] ∧ State.reset.pending = [] := ⟨rfl, rfl⟩

theorem test_meets_RequestsMeetTheReplyQueue :
    requestOf (.identify 1) = some (1, .identify) ∧ fullReplies (queued 7 0).host.replies < 8
    ∧ 8 ≤ fullReplies (queued 8 7).host.replies ∧ (queued 8 7).host.replies.length < 16
    ∧ 8 ≤ fullReplies (queued 8 8).host.replies ∧ 16 ≤ (queued 8 8).host.replies.length := by decide +kernel

theorem test_meets_HostLinkUnitRefusals :
    requestOf (.identify 0) = some (0, .identify) ∧ fullReplies (queued 7 8).host.replies < 8
    ∧ State.reset.takes 1 ∧ readFixedText [0x41, 0, 1] = .unusedBit
    ∧ requestOf (.productDelete 1 [0x41, 0, 1]) = some (1, .productDelete)
    ∧ requestOf (.shipOpen 1 nameA [0x41, 0, 1]) = some (1, .shipOpen)
    ∧ readFixedText [0x41, 0, 0] = .value nameA := by decide +kernel

theorem test_meets_RefusedRequestsChangeNothing :
    requestOf (.productDelete 1 nameA) = some (1, .productDelete) ∧ State.reset.takes 1
    ∧ ∃ t, exec (.productDelete 1 nameA) State.reset = .next t
      ∧ t.host.replies = State.reset.host.replies ++ [.full 1 (.request .productDelete) ⟨.refused .notFound, .none⟩] :=
  ⟨rfl, by decide +kernel, _, rfl, by decide +kernel⟩

theorem test_meets_TransmitterTakesRepliesFirst :
    (HostLink.mk 115200 Receiver.hunting (queued 2 0).host.replies [] 0 0 0 (some .reply) false).replies.tail ≠ []
    ∧ (HostLink.mk 115200 Receiver.hunting [] (reports 2) 0 0 0 (some (.report ⟨0, .maintenance 0 0 0⟩ 0)) true).reports.tail = reports 1
    ∧ (queued 1 0).host.replies.tail = [] ∧ reports 1 = ⟨0, .maintenance 0 0 0⟩ :: [] ∧ State.reset.host.reports = [] := by decide +kernel

/-- An idle line with a reply, with a report and with neither, a line with a frame under way, and an event that leaves it idle. -/
theorem test_meets_TransmitterTakesRepliesFirst_settle :
    (∀ s ∈ [queued 1 0, State.reset, { State.reset with host := { State.reset.host with reports := reports 1 } }],
      s.host.tx = none ∧ s.host.headHeld = false)
    ∧ (∀ b ∈ [true, false], ∀ h, h = HostLink.mk 115200 Receiver.hunting [] (reports 1) 0 0 0 (some (.report ⟨0, .maintenance 0 0 0⟩ 0)) b →
      h.tx ≠ none ∧ h.headHeld = b)
    ∧ ∃ t, exec .floorTimeTick State.reset = .next t ∧ t.host.tx = none := by
  refine ⟨by decide +kernel, ?_, _, rfl, by decide +kernel⟩
  intro b _ h e; subst e; exact ⟨nofun, rfl⟩

theorem test_meets_TransmitterTakesRepliesFirst_raise : (reports 63).length < 64 ∧ 64 ≤ (reports 64).length := by decide +kernel

theorem test_meets_HostLineErrors :
    State.reset.host.rx.candidate = none ∧ (⟨true, some [0]⟩ : Receiver).candidate = some [0] ∧ (0 : Byte) ≠ 0xA5
    ∧ judgeHost [0xFF, 0xFF] = .failed ∧ judgeHost [0xA5] = .incomplete
    ∧ judgeHost (hostFrame 0x30 1 [7]).tail = .proved [0x30, 0, 1, 7] [] := by decide +kernel

theorem test_meets_FloorClock : (queued 7 8).takes 0xFFFF ∧ (queued 0 0).takes 1 := by decide +kernel
theorem test_meets_IdentifyAnswersTheCapacities : (queued 7 8).takes 1 := by decide +kernel
theorem test_meets_FloorStatusCountsEverything : (queued 7 8).takes 1 := by decide +kernel
theorem test_meets_FloorResetEmptiesTheFloor : (floorA (workA 2 5) (cellW .running true)).takes 1 := by decide +kernel
theorem test_meets_ColdResetRestoresTheResetValues :
    (10000 : Nat) ≤ 10000 ∧ 999 < 1000 ∧ (1000 ≤ 1000 ∧ 1000 < 10000) ∧ 1000 ≤ 9999 ∧ 9999 < 10000 := by decide

theorem test_meets_QueriesAnswerAndChangeNothing : ∀ s, s = floorQ (lotC .complete) (some (shipA .open none)) →
    s.takes 1 ∧ s.findProduct nameA = some 0 ∧ (s.product 0).isSome ∧ validName nameA ∧ s.findLot nameA = some 0 ∧ (s.lot 0).isSome
    ∧ (s.summary 0 1).isSome ∧ validCode nameA ∧ (s.product 0).map (·.steps.length) = some 1
    ∧ s.findShip nameB = some 0 ∧ (s.ship 0).isSome := by rintro _ rfl; decide +kernel

/-! ### Hypotheses met: products and catalog -/

theorem test_meets_CatalogQueryAnswersEntries :
    floorD.takes 1 ∧ readFixedText nameA ≠ .unusedBit ∧ floorD.entry nameB 1 = none ∧ floorD.entry nameA 1 = some entryA := by decide +kernel

/-- The soak timeout, the dwell and K stand just outside their ranges and are clamped (R2, R3). -/
theorem test_meets_StoredDefinitionsAreInRange :
    takeProduct productReqA = some ⟨nameA, [{ stepA with
      dwell := 1800, limits := { stepA.limits with entries := [⟨2, 50000, 1000, .learned, 32, .masked⟩] } }], 0, 0⟩
    ∧ productReqA.steps[0]? = some stepReqA ∧ stepReqA.entries[0]? = some ⟨2, 50000, 1000, some .learned, 33, 1⟩ := by
  decide +kernel

/-- The same request, its soak timeout, dwell and K still outside their ranges, meets the conditions on which it is taken. -/
theorem test_meets_StoredDefinitionsAreInRange_taken :
    readFixedText productReqA.code = .value nameA ∧ validCode nameA ∧ productReqA.routeLength = 1
    ∧ productReqA.steps.length = productReqA.routeLength ∧ productReqA.qaSample ≤ 500
    ∧ ∀ r ∈ productReqA.steps, (∃ program kit, readFixedText r.program = .value program ∧ validName program
        ∧ readFixedText r.kit = .value kit ∧ validKit kit)
      ∧ r.tempClass.toNat ≤ 2 ∧ 1 ≤ r.revision ∧ r.revision ≤ 65535 ∧ r.minSites = 1 ∧ ¬ BinSet.has r.retestBins 1
      ∧ r.yieldFloor ≤ 1000000 ∧ r.yieldMask.toNat ≤ 1 ∧ 1 ≤ r.minSample ∧ r.minSample ≤ 65535 ∧ r.consecFail = 0
      ∧ r.entries.length ≤ 4 ∧ (r.entries.map (·.bin)).Nodup
      ∧ ∀ e ∈ r.entries, 2 ≤ e.bin ∧ e.bin ≤ 16 ∧ e.floor ≤ e.ceiling ∧ e.ceiling ≤ 1000000 ∧ e.mode.isSome ∧ e.mask.toNat ≤ 1 := by
  refine ⟨by decide +kernel, by decide +kernel, rfl, rfl, by decide +kernel, fun r hr => ?_⟩
  have e : r = stepReqA := by simpa [productReqA] using hr
  subst e
  exact ⟨⟨nameA, nameA, by decide +kernel⟩, by decide +kernel⟩

theorem noLots : ∀ x l, floorD.lot x ≠ some l := by
  have h : ∀ x, (floorD.lot x).isNone := by decide +kernel
  intro x l e; have := h x; rw [e] at this; cases this

theorem noShips : ∀ k h, floorD.ship k ≠ some h := by
  have h : ∀ x, (floorD.ship x).isNone := by decide +kernel
  intro x l e; have := h x; rw [e] at this; cases this

theorem test_meets_ProductsAreDefinedAndDeleted :
    (State.reset.takes 1 ∧ takeProduct productReqA ≠ none ∧ State.reset.findProduct nameA = none ∧ State.reset.freeProduct = some 0)
    ∧ (floorD.takes 1 ∧ floorD.findProduct nameA = some 0 ∧ floorD.product 0 = some { productA with live := 0 })
    ∧ ((floorA none (cellA .offline)).findProduct nameA = some 0 ∧ (floorA none (cellA .offline)).product 0 = some productA
      ∧ 0 < productA.live)
    ∧ (∀ s, s = { floorD with lots := State.reset.lots.set 0 (some (lotC .scrapped)) } →
      s.findProduct nameA = some 0 ∧ s.product 0 = some { productA with live := 0 } ∧ s.lot 0 = some (lotC .scrapped)
      ∧ (lotC .scrapped).product = 0 ∧ s.lot 1 = none)
    ∧ (∀ x l, floorD.lot x = some l → l.product ≠ 0) ∧ ∀ k h, floorD.ship k = some h → h.product ≠ 0 :=
  ⟨by decide +kernel, by decide +kernel, by decide +kernel, by rintro _ rfl; decide +kernel, fun x l h => absurd h (noLots x l), fun k h e => absurd e (noShips k h)⟩

theorem test_meets_MasksAndRevisionsAreStored :
    (floorD.takes 1 ∧ validCode nameA ∧ CheckSel.valid .yield ∧ (CheckSel.bin 2).valid ∧ floorD.findProduct nameA = some 0
      ∧ floorD.product 0 = some { productA with live := 0 } ∧ productA.step 1 = some stepA
      ∧ stepA.limits.mask .yield = some .unmasked ∧ stepA.limits.mask (.bin 2) = some .masked)
    ∧ (stepA.revision = 1 ∧ stepA.revision ≠ 65535)
    ∧ ∀ x l, floorD.lot x = some l → l.isAtStep 0 1 → l.revisionsUsed.length < 4 :=
  ⟨by decide +kernel, by decide, fun x l h => absurd h (noLots x l)⟩

/-- The lot at work with a bin 2 flag that has set, or not, and its check waived, or not. -/
def floorF (holds : List Hold) (flag : Option FlagValues) (waived : BinSet) : State :=
  { floorA (some (lotA .active .stepOpen holds (portionA (.atCell 0) 0 8))) (cellW .running true) with
    tallies := State.reset.tallies.set 0
      { LotStepRec.empty with binFlags := (Vector.replicate 16 none).set 1 flag, waive := ⟨false, waived⟩ } }

/-- Bin 2 unmasked while a lot at the step has its flag set, waived or clear, without a hold, with one of the reason or of another. -/
theorem test_meets_MasksAndRevisionsAreStored_unmasked :
    (∀ v ∈ [([], some ⟨1, 7, 60000, 50000⟩, (0 : BinSet)), ([holdA .binlimit], some ⟨1, 7, 60000, 50000⟩, 0),
        ([holdA .yield], some ⟨1, 7, 60000, 50000⟩, 0b10), ([], none, 0)], ∀ s, s = floorF v.1 v.2.1 v.2.2 →
      s.takes 1 ∧ s.findProduct nameA = some 0 ∧ s.product 0 = some productA ∧ s.lot 0 = some (lotA .active .stepOpen v.1 (portionA (.atCell 0) 0 8))
      ∧ (s.tally 0).flag (.bin 2) = v.2.1 ∧ (s.tally 0).waive.has (.bin 2) = BinSet.has v.2.2 2 ∧ (s.cell 0).current = some ⟨0, 1⟩)
    ∧ (0, 1) ∈ (lotA .active .stepOpen [] (portionA (.atCell 0) 0 8)).atCells
    ∧ ∀ holds flag waived y k, (floorF holds flag waived).lot y = some k → k.pendingCells = [] := by
  refine ⟨fun v h s e => ?_, by decide, fun holds flag waived y k h => ?_⟩
  · subst e; revert v; decide +kernel
  · by_cases hy : y = 0
    · subst hy; cases h; rfl
    · have : (State.reset.lots.set 0 (some (lotA .active .stepOpen holds (portionA (.atCell 0) 0 8)))).get y = some k := h
      have h0 : (0 : Nat) ≠ y.val := fun e => hy (Fin.ext e.symm)
      simp [Vector.get_eq_getElem, h0, State.reset] at this

theorem test_meets_CatalogEntriesComeAndGo :
    (∀ s, s = { State.reset with catalog := List.replicate 31 { entryA with revision := 2 } } →
      s.takes 1 ∧ validName nameA ∧ s.entry nameA 1 = none ∧ s.catalog.length < 32 ∧ s.noCellWaits)
    ∧ ∀ s, s = { State.reset with catalog := [entryA] } →
      (s.entry nameA 1).isSome ∧ (∀ i p st, s.product i = some p → st ∈ p.steps → ¬ (st.program = nameA ∧ st.revision = 1))
      ∧ (∀ x, s.lot x = none)
      ∧ ∀ c, (s.cell c).program ≠ some ⟨nameA, 1⟩ ∧ ((s.load c).active → (s.load c).program ≠ some ⟨nameA, 1⟩) := by
  refine ⟨by rintro _ rfl; decide +kernel, ?_⟩
  rintro _ rfl
  refine ⟨by decide +kernel, fun i p st h => ?_, by decide +kernel, by decide +kernel⟩
  have e : ∀ i, ({ State.reset with catalog := [entryA] }.product i).isNone := by decide +kernel
  have := e i; rw [h] at this; cases this

/-- A revision in use: by a portion at a cell, by a pending one, and by one whose load is under way. -/
theorem test_meets_CatalogStateSuspendsAndApproves_in_use :
    (∀ s, s = floorA (workA 0 8) (cellW .running true) → s.lot 0 = workA 0 8 ∧ (s.stepOf (lotA .active .stepOpen [] (portionA (.atCell 0) 0 8))) = some stepA
      ∧ (portionA (.atCell 0) 0 8).atCell ∧ (portionA (.atCell 0) 0 8).revision = some 1)
    ∧ (∀ s, s = floorA (some (lotA .active .stepOpen [] (portionA (.pending 0) 10 0))) { cellA .running with pendingSlot := some ⟨0, 1⟩ } →
      s.waitList = [] ∧ (s.cell 0).pendingSlot = some ⟨0, 1⟩ ∧ stepA.revision = 1
      ∧ s.work ⟨0, 1⟩ = some (lotA .active .stepOpen [] (portionA (.pending 0) 10 0), portionA (.pending 0) 10 0, stepA)
      ∧ ∀ c, c ≠ 0 → (s.cell c).pendingSlot = none ∧ (s.load c).active = false)
    ∧ ∀ s, s = floorB [] → s.buffers.get 0 = .reserved 0 0 ∧ (s.load 0).wants = [0] ∧
      s.waitList = [] ∧ (s.load 0).active ∧ (s.load 0).program = some ⟨nameA, 1⟩ ∧ (s.cell 0).state = .loading ∧ (s.cell 0).loadFailures < 3
      ∧ s.currentWork 0 = some (⟨0, 1⟩, lotA .active .stepOpen [] (portionA (.atCell 0) 10 0), portionA (.atCell 0) 10 0, stepA)
      ∧ ∀ c, (s.cell c).pendingSlot = none ∧ (c ≠ 0 → (s.load c).active = false) := by
  refine ⟨?_, ?_, ?_⟩ <;> (rintro _ rfl; decide +kernel)

theorem test_meets_CatalogStateSuspendsAndApproves :
    (floorD.takes 1 ∧ floorD.entry nameA 1 = some entryA ∧ entryA.state = .approved)
    ∧ ∀ s, s = { floorD with catalog := [{ entryA with state := .suspended }] } →
      s.entry nameA 1 = some { entryA with state := .suspended } ∧ s.noCellWaits :=
  ⟨by decide +kernel, by rintro _ rfl; decide +kernel⟩

/-! ### Hypotheses met: lots -/

theorem test_meets_PortionSizesSplitThePass :
    ((0 : Nat) = 0 ∨ 1 ≤ 0) ∧ (10 ≤ 10) ∧ ((600 : Nat) ≠ 0 ∧ 600 < 1800 ∧ ceilDiv 1800 600 ≤ 8) ∧ ceilDiv 8 1 ≤ 8
    ∧ ((1 : Nat) ≠ 0 ∧ 1 < 9 ∧ 8 < ceilDiv 9 1) := by decide +kernel

theorem test_meets_LotRegisterQueuesTheFirstStep :
    floorD.takes 1 ∧ validName nameB ∧ validCode nameA ∧ floorD.findLot nameB = none ∧ floorD.findProduct nameA = some 0
    ∧ floorD.freeLot = some 0 ∧ floorD.noCellWaits ∧ floorD.hasEntry 0 = false := by decide +kernel

theorem test_meets_LotPriorityAndDelete :
    (∀ s, s = floorA (some (lotW [])) (cellA .offline) → s.takes 1 ∧ validName nameA ∧ s.findLot nameA = some 0 ∧ s.lot 0 = some (lotW [])
      ∧ (lotW []).state.direct = false ∧ s.noCellWaits ∧ s.hasEntry 0 = false
      ∧ [(⟨0, 1, 0, 15⟩ : WaitEntry)].find? (fun e => e.lot = 0) = some ⟨0, 1, 0, 15⟩)
    ∧ ∀ st ∈ [LotState.closed, .scrapped, .noYield, .scrapping],
      (floorA (some (lotC st)) (cellA .offline)).findLot nameA = some 0 ∧ (lotC st).state = st :=
  ⟨by rintro _ rfl; decide +kernel, by decide +kernel⟩

theorem test_meets_LotHoldRaisesAnEngineeringHold_at_cell : ∀ s, s = floorA (workA 0 8) (cellW .running true) →
    s.takes 1 ∧ s.findLot nameA = some 0 ∧ s.lot 0 = workA 0 8 ∧ ∀ l, l = lotA .active .stepOpen [] (portionA (.atCell 0) 0 8) →
      l.holds = [] ∧ l.pendingCells = [] ∧ (0, 1) ∈ l.atCells ∧ (s.cell 0).current = some ⟨0, 1⟩ ∧ (s.cell 0).pause.isEmpty
      ∧ (s.cell 0).state = .running := by
  rintro _ rfl; exact ⟨by decide +kernel, by decide +kernel, rfl, by rintro _ rfl; decide +kernel⟩

theorem test_meets_LotHoldRaisesAnEngineeringHold_released :
    ∀ s, s = floorQ (lotC .released) (some (shipA .released (some 1))) →
    s.takes 1 ∧ s.findLot nameA = some 0 ∧ s.lot 0 = some (lotC .released) ∧ (lotC .released).route = .routeEnd
    ∧ (lotC .released).heldFor .engineering = false ∧ (lotC .released).portions.any Portion.placed = false
    ∧ s.shipOf 0 = some 0 ∧ s.ship 0 = some (shipA .released (some 1)) ∧ (∀ y ∈ (shipA .released (some 1)).members, s.shipOf y = some 0) := by
  rintro _ rfl; decide +kernel

theorem test_meets_LotHoldRaisesAnEngineeringHold : ∀ hs ∈ [[holdA .engineering], [holdA .yield], []], ∀ l, l = lotW hs →
    (floorA (some l) (cellA .offline)).takes 1 ∧ (floorA (some l) (cellA .offline)).findLot nameA = some 0 ∧ l.state.direct = false
    ∧ l.state ≠ .released ∧ (l.heldFor .engineering ∨ l.heldFor .engineering = false ∧ l.portions.any Portion.placed = false) := by
  intro hs h l e; subst e; revert hs; decide +kernel

theorem test_meets_DisposedHoldsLeaveTheList :
    (∀ r ∈ [HoldReason.yield, .binlimit, .check, .engineering], ∀ l, l = lotW [holdA r] →
      (floorA (some l) (cellA .offline)).findLot nameA = some 0 ∧ l.holds.find? (fun g => g.reason = (holdA r).reason) = some (holdA r)
      ∧ (l.portions.any Portion.atCell) = false ∧ (floorA (some l) (cellA .offline)).noCellWaits ∧ l.route ≠ .stepHeld
      ∧ (allowed r .release).holds (floorA (some l) (cellA .offline)) 0 l (holdA r))
    ∧ ∀ l, l = lotA .parked .stepHeld [holdA .yield] ⟨1, .done, 10, 10, 0, 0, 0, some 1, [1], 1, some 0, some 0, 0⟩ → ∀ s, s = floorQ l none →
      s.takes 1 ∧ s.findLot nameA = some 0 ∧ s.lot 0 = some l ∧ s.noCellWaits ∧ meetsA s 0 l (holdA .yield) ∧ s.hasEntry 0 = false
      ∧ s.shipOf 0 = none := by
  refine ⟨?_, ?_⟩
  · intro r h l e; subst e; revert r; decide +kernel
  · intro l e s d; subst e; subst d; decide +kernel

/-- The last record of a STEP-HELD lot, and a QA record. -/
theorem test_meets_DisposedHoldsLeaveTheList_last :
    (∀ r ∈ [HoldReason.yield, .count], ∀ l, l = lotA .parked .stepHeld [holdA r] ⟨1, .done, 10, 10, 0, 0, 0, some 1, [1], 1, some 0, some 0, 0⟩ →
      ∀ s, s = floorQ l none → s.takes 1 ∧ s.findLot nameA = some 0 ∧ s.lot 0 = some l ∧ s.noCellWaits
      ∧ l.holds.find? (fun g => g.reason = (holdA r).reason) = some (holdA r) ∧ (allowed r .release).holds s 0 l (holdA r)
      ∧ (l.holds.filter fun g => g.reason ≠ (holdA r).reason) = [] ∧ l.state.direct = false ∧ s.product 0 = some productA)
    ∧ ∀ l, l = { lotC .parked with route := .qaFailed, holds := [holdA .qa] } → ∀ s, s = floorQ l none →
      s.findLot nameA = some 0 ∧ s.lot 0 = some l ∧ l.holds.find? (fun g => g.reason = (holdA .qa).reason) = some (holdA .qa) := by
  refine ⟨?_, ?_⟩
  · intro r h l e s d; subst e; subst d; revert r; decide +kernel
  · intro l e s d; subst e; subst d; decide +kernel

/-- A queued portion of a lot in a shipment, one at a cell whose run has started or not, and one in a pending slot. -/
theorem test_meets_ScrapEndsTheLot :
    (∀ s, s = floorQ (lotW [holdA .yield]) (some (shipA .checking none)) →
      s.takes 1 ∧ validName nameA ∧ s.findLot nameA = some 0 ∧ s.lot 0 = some (lotW [holdA .yield])
      ∧ (lotW [holdA .yield]).portions.any Portion.placed = false ∧ s.shipOf 0 = some 0 ∧ s.ship 0 = some (shipA .checking none))
    ∧ (∀ b ∈ [true, false], ∀ l, l = lotA .active .stepOpen [holdA .yield] (portionA (.atCell 0) 2 5) →
      ∀ s, s = floorA (some l) (cellW .paused b) → s.takes 1 ∧ s.findLot nameA = some 0 ∧ s.lot 0 = some l ∧ s.waitList = []
      ∧ l.holds.find? (fun g => g.reason = .yield) = some (holdA .yield) ∧ (l.portions.map (·.number)).Nodup
      ∧ (s.cell 0).online ∧ (s.cell 0).current = some ⟨0, 1⟩ ∧ (s.cell 0).pendingSlot = none ∧ (s.cell 0).runStarted = b
      ∧ (s.port 0).tx = none ∧ (s.port 0).txList = [] ∧ (s.load 0).active = false)
    ∧ ∀ l, l = lotA .active .stepOpen [holdA .yield] (portionA (.pending 0) 10 0) →
      ∀ s, s = floorA (some l) { cellA .running with current := some ⟨1, 1⟩, pendingSlot := some ⟨0, 1⟩ } →
      s.takes 1 ∧ s.findLot nameA = some 0 ∧ s.lot 0 = some l ∧ s.waitList = [] ∧ (s.cell 0).pendingSlot = some ⟨0, 1⟩
      ∧ ∀ p ∈ l.portions, p.state = .pending 0 := by
  refine ⟨by rintro _ rfl; decide +kernel, fun b h l e s d => ?_, by rintro _ rfl _ rfl; decide +kernel⟩
  subst e; subst d; revert b; decide +kernel

/-- A bin flag of bin 1, in the tally or in a summary, is out of the range of bins 2 to 16 (R41, R123). -/
theorem test_import_bin_1_flag : ∀ k ∈ [(0 : Fin 16), 1], ∀ v, v = (Vector.replicate 16 none).set k.val (some ⟨1, 0, 200000, 50000⟩) →
    validContext { contextA with tally := { LotStepRec.empty with binFlags := v } } = (k == 1)
    ∧ validContext { contextA with summaries := [{ summaryA with binFlags := v }] } = (k == 1) := by
  intro k hk v e; subst e; revert k; decide +kernel

/-- A held lot whose portion is at a cell, of one record and of two. -/
theorem test_meets_DisposedHoldsLeaveTheList_atCell :
    ∀ hs ∈ [[holdA .engineering], [holdA .engineering, holdA .count]], ∀ l, l = lotA .active .stepOpen hs (portionA (.atCell 0) 5 5) → ∀ s,
      s = floorA (some l) { cellW .paused true with pause := PauseSet.empty.add .hold, runTested := 1 } →
      s.takes 1 ∧ s.findLot nameA = some 0 ∧ s.lot 0 = some l ∧ l.atCells = [(0, 1)]
      ∧ l.holds.find? (fun g => g.reason = (holdA .engineering).reason) = some (holdA .engineering)
      ∧ (allowed .engineering .release).holds s 0 l (holdA .engineering) := by
  intro hs h l e s d; subst e; subst d; revert hs; decide +kernel

/-- A cell under HOLD alone or beside JAM, in each state and each stage of its run, and one without HOLD. -/
theorem test_meets_DisposedHoldsLeaveTheList_resume :
    (∀ st ∈ [CellState.idle, .paused, .draining], ∀ b ∈ [true, false], ∀ n ∈ [0, 1], ∀ kit ∈ [some nameA, none],
      ∀ program ∈ [some ⟨nameA, 1⟩, none], ∀ s, s = floorA (workA 5 5) { cellW st b with
        pause := PauseSet.empty.add .hold, runTested := n, kit := kit, program := program } →
      (s.cell 0).current = some ⟨0, 1⟩ ∧ (s.cell 0).pause.hold ∧ ((s.cell 0).pause.drop .hold).isEmpty ∧ (s.cell 0).state = st
      ∧ (s.cell 0).runStarted = b ∧ (s.cell 0).runTested = n ∧ (s.cell 0).kit = kit ∧ (s.cell 0).program = program
      ∧ s.currentWork 0 = some (⟨0, 1⟩, lotA .active .stepOpen [] (portionA (.atCell 0) 5 5), portionA (.atCell 0) 5 5, stepA)
      ∧ s.entry nameA 1 = some entryA ∧ entryA.state = .approved)
    ∧ (((PauseSet.empty.add .hold).add .jam).drop .hold).isEmpty = false
    ∧ ((floorA (workA 5 5) (cellW .paused true)).cell 0).pause.hold = false := by
  refine ⟨fun st _ b _ n _ kit _ program _ s e => ?_, by decide +kernel, by decide +kernel⟩
  subst e; revert st b n kit program; decide +kernel

/-- A lot that may leave; records with an unused bit or out of range; and one that comes back, its yield flag clear or set. -/
theorem test_meets_LotsLeaveAndReturnWithTheirContext :
    (∀ s, s = floorA (some (lotW [])) (cellA .offline) → s.takes 1 ∧ validName nameA ∧ s.findLot nameA = some 0 ∧ exportable s 0 (lotW []))
    ∧ readFixedText [0x41, 0, 1] = .unusedBit ∧ validContext { contextA with product := 16 }.read = false
    ∧ ∀ f ∈ [none, some ⟨1, 0, 0, 900000⟩], ∀ c, c = { contextA with id := [0x41, 0], tally := LotStepRec.empty.setFlag .yield f } →
      (∀ t ∈ c.texts, readFixedText t ≠ .unusedBit) ∧ validContext c.read ∧ floorD.findLot c.read.id = none
      ∧ floorD.findProduct c.read.productCode = some 0 ∧ importBarred c.read { productA with live := 0 } = false
      ∧ floorD.freeLot = some 0 ∧ floorD.noCellWaits ∧ floorD.shipOf 0 = none ∧ floorD.hasEntry 0 = false
      ∧ productA.step c.stepIndex = some stepA ∧ stepA.limits.mask .yield = some .unmasked ∧ c.tally.flag .yield = f
      ∧ stepA.limits.entries.length ≤ 4 ∧ ∀ e ∈ stepA.limits.entries, 2 ≤ e.bin ∧ e.bin ≤ 16 := by
  refine ⟨?_, by decide +kernel, by decide +kernel, ?_⟩
  · rintro _ rfl; decide +kernel
  · intro f h c e; subst e; revert f; decide +kernel

/-! ### Hypotheses met: cells -/

theorem test_meets_CellConfigureStoresTheValues :
    (∀ st ∈ [CellState.offline, .down], ∀ s, s = floorA none { cellA st with linkUp := false } →
      s.takes 1 ∧ validName nameB ∧ (s.cell 0).state = st ∧ (s.cell 0).current = none ∧ (s.cell 0).pendingSlot = none
      ∧ ∀ d, d ≠ 0 → (s.cell d).configured → (s.cell d).stationName ≠ some nameB)
    ∧ ∀ s, s = floorA none (cellA .down) → (s.cell 1).state = .offline ∧ (s.cell 0).configured ∧ (s.cell 0).stationName = some nameA := by
  refine ⟨fun st h s e => ?_, ?_⟩
  · subst e; revert st; decide +kernel
  · rintro _ rfl; decide +kernel

theorem test_meets_PauseReasonsStopTheCell : ∀ st ∈ [CellState.running, .soaking, .loading], ∀ up ∈ [true, false],
    ∀ s, s = floorA (workA 10 0) { cellW st false with linkUp := up } →
    s.takes 1 ∧ (s.cell 0).configured ∧ (s.cell 0).linkUp = up ∧ (s.cell 0).pause.isEmpty := by
  intro st h up k s e; subst e; revert st up; decide +kernel

/-- Each clause of the removal of a pause reason: none there, another stays, an IDLE cell, a run that tested, one that did not. -/
theorem test_meets_RemovedReasonsResumeTheCell :
    ∀ r, r = PauseReason.operator ∨ r = .jam → ∀ st ∈ [CellState.idle, .paused, .draining], ∀ n ∈ [0, 1], ∀ s,
      s = floorA (workA 10 0) { cellW st true with pause := PauseSet.empty.add r, runTested := n } →
      s.takes 1 ∧ s.waitList = [] ∧ (s.cell 0).configured ∧ (s.cell 0).linkUp ∧ (s.cell 0).pause.has r
      ∧ ((s.cell 0).pause.drop r).isEmpty ∧ ((s.cell 0).pause.add .hold |>.drop r).isEmpty = false ∧ PauseSet.empty.has r = false
      ∧ (s.cell 0).state = st ∧ (s.cell 0).runStarted ∧ (s.cell 0).runTested = n ∧ (s.currentWork 0).isSome := by
  intro r hr st h n k s e
  subst e
  rcases hr with rfl | rfl <;> revert st n <;> decide +kernel

/-- A PAUSED cell whose run has not started: another kit, the program loaded or to load, its revision usable or not. -/
theorem test_meets_RemovedReasonsResumeTheCell_setup :
    ∀ r, r = PauseReason.operator ∨ r = .jam →
    ∀ kit ∈ [some nameA, none], ∀ program ∈ [some ⟨nameA, 1⟩, none], ∀ st ∈ [CatState.approved, .suspended], ∀ s,
      s = { floorA (workA 10 0) { cellW .paused false with
        pause := PauseSet.empty.add r, kit := kit, program := program, maintenanceDue := true } with
        catalog := [{ entryA with state := st }] } →
      (s.takes 1 ∧ (s.cell 0).configured ∧ (s.cell 0).linkUp ∧ (s.cell 0).state = .paused ∧ (s.cell 0).pause.has r
        ∧ ((s.cell 0).pause.drop r).isEmpty)
      ∧ (s.cell 0).runStarted = false ∧ s.waitList = [] ∧ s.noCellWaits ∧ (s.cell 0).kit = kit ∧ (s.cell 0).program = program
      ∧ s.currentWork 0 = some (⟨0, 1⟩, lotA .active .stepOpen [] (portionA (.atCell 0) 10 0), portionA (.atCell 0) 10 0, stepA)
      ∧ stepA.kit = nameA ∧ s.entry nameA 1 = some { entryA with state := st } ∧ s.approved nameA 1 = (st == .approved)
      ∧ (s.cell 0).loadFailures < 3 := by
  intro r hr kit hk program hp st hs s e; subst e
  rcases hr with rfl | rfl <;> revert kit program st <;> decide +kernel

theorem test_meets_CellsGoOutOfServiceAndReturn :
    (∀ st ∈ [CellState.offline, .idle, .draining, .purging], ∀ s, s = floorA none (cellA st) →
      s.takes 1 ∧ (s.cell 0).configured ∧ (s.cell 0).state = st ∧ (s.cell 0).pendingSlot = none)
    ∧ (∀ st ∈ [CellState.reserved, .loading, .soaking, .paused, .running], ∀ b ∈ [true, false], ∀ s,
      s = floorA (workA 10 0) (cellW st b) → (s.cell 0).configured ∧ (s.cell 0).state = st ∧ (s.cell 0).runStarted = b
      ∧ (s.cell 0).pendingSlot = none)
    ∧ ∀ up ∈ [true, false], ∀ s, s = floorA none { cellA .down with linkUp := up } →
      (s.cell 0).state = .down ∧ (s.cell 0).linkUp = up := by
  refine ⟨fun st h s e => ?_, fun st h b k s e => ?_, fun up h s e => ?_⟩ <;> subst e
  · revert st; decide +kernel
  · revert st b; decide +kernel
  · revert up; decide +kernel

/-- A portion whose run has not started, in each of those states, with its load active. -/
theorem test_meets_CellsGoOutOfServiceAndReturn_with_work :
    ∀ st ∈ [CellState.reserved, .loading, .soaking, .paused], ∀ s,
      s = modLoad 0 (fun d => { d with state := .wanting }) (floorA (workA 10 0) (cellW st false)) →
      s.takes 1 ∧ s.noCellWaits ∧ (s.cell 0).configured ∧ (s.cell 0).state = st ∧ (s.cell 0).runStarted = false
      ∧ (s.cell 0).pendingSlot = none ∧ (s.cell 0).current = some ⟨0, 1⟩ ∧ (s.lot 0).map (·.state) = some .active
      ∧ ((s.lot 0).bind fun l => l.portion 1) = some (portionA (.atCell 0) 10 0) ∧ (s.load 0).active := by
  intro st h s e; subst e; revert st; decide +kernel

theorem test_meets_CellClearAbandonsTheWork :
    (∀ x ∈ [cellW .running true, cellA .idle, cellA .purging], ∀ s, s = floorA (workA 2 5) x →
      s.takes 1 ∧ (s.cell 0).configured ∧ (s.load 0).active = false ∧ (s.cell 0).pendingSlot = none ∧ (s.cell 0).linkUp
      ∧ (s.cell 0).state ≠ .down ∧ ((s.cell 0).runStarted ∨ (s.cell 0).current = none))
    ∧ ∀ st ∈ [CellState.offline, .down], ∀ s, s = floorA none { cellA st with linkUp := false } →
      (s.load 0).active = false ∧ (s.cell 0).state = st ∧ (s.cell 0).linkUp = false ∧ (s.cell 0).current = none := by
  refine ⟨fun x h s e => ?_, fun st h s e => ?_⟩ <;> subst e
  · revert x; decide +kernel
  · revert st; decide +kernel

/-- An active load; a pending portion; a portion whose run has not started, its load active or not; and one stranded on an OFFLINE cell, with units left or none. -/
theorem test_meets_CellClearAbandonsTheWork_with_work :
    (∀ s, s = modLoad 0 (fun _ => startedLoad ⟨nameA, 1⟩ entryA) (floorA (workA 2 5) (cellW .running true)) →
      s.takes 1 ∧ (s.cell 0).configured ∧ s.noCellWaits ∧ (s.load 0).active ∧ (s.cell 0).linkUp ∧ (s.cell 0).runStarted
      ∧ (s.cell 0).pendingSlot = none ∧ ∀ d, d ≠ 0 → s.bufferWaiting.get d = false)
    ∧ (∀ s, s = floorA (some (lotA .active .stepOpen [] (portionA (.pending 0) 10 0)))
        { cellA .running with runStarted := true, current := some ⟨1, 1⟩, pendingSlot := some ⟨0, 1⟩ } →
      s.noCellWaits ∧ (s.cell 0).linkUp ∧ (s.cell 0).state ≠ .down ∧ (s.cell 0).runStarted ∧ (s.cell 0).pendingSlot = some ⟨0, 1⟩
      ∧ (s.lot 0).bind (fun l => l.portion 1) = some (portionA (.pending 0) 10 0))
    ∧ (∀ s, s = floorA (workA 10 0) (cellW .soaking false) → s.noCellWaits ∧ (s.cell 0).linkUp ∧ (s.cell 0).runStarted = false
      ∧ (s.cell 0).pendingSlot = none ∧ (s.cell 0).current = some ⟨0, 1⟩ ∧ 0 < (portionA (.atCell 0) 10 0).r)
    ∧ (∀ s, s = floorB [] → s.takes 1 ∧ (s.cell 0).configured ∧ s.noCellWaits ∧ (s.cell 0).linkUp ∧ (s.cell 0).state = .loading
      ∧ (s.cell 0).runStarted = false ∧ (s.cell 0).pendingSlot = none ∧ (s.cell 0).current = some ⟨0, 1⟩ ∧ (s.load 0).active
      ∧ s.buffers.get 0 = .reserved 0 0 ∧ ∀ d, s.bufferWaiting.get d = false)
    ∧ ∀ r ∈ [0, 2], ∀ p, p = portionA (.atCell 0) r 5 → ∀ l, l = { lotA .active .stepOpen [] p with portions := [p, { portionA .queued 10 0 with number := 2 }] } →
      ∀ s, s = floorA (some l) { cellW .offline true with linkUp := false } → s.noCellWaits ∧ (s.cell 0).linkUp = false
      ∧ (s.cell 0).state = .offline ∧ (s.cell 0).pendingSlot = none ∧ (s.cell 0).current = some ⟨0, 1⟩ ∧ l.portion 1 = some p
      ∧ l.state ≠ .scrapping ∧ ∃ q ∈ l.passPortions l.pass, q.number ≠ p.number ∧ q.state ≠ .done := by
  refine ⟨by rintro _ rfl; decide +kernel, by rintro _ rfl; decide +kernel, by rintro _ rfl; decide +kernel,
    by rintro _ rfl; decide +kernel, ?_⟩
  intro r h p e l d s k; subst e; subst d; subst k; revert r; decide +kernel

/-- Every way an active load of a LOADING cell ends without a run frees its buffer (R101, R102), and a load that waits has it next (R91). -/
theorem test_failed_loads_free_their_buffers :
    (∀ i ∈ [Instr.cellClear 1 0, .cellDown 1 0, .lineBreak 0, .catalogState 1 nameA 1 (some .suspended),
        .lotDispose 1 nameA (some .program) (some .scrap)],
      gives (exec i (floorB [holdA .program])) (fun t => t.buffers.get 0 = .free && (t.load 0).state = .failed && (t.load 0).wants = []))
    ∧ ∀ s, s = setBufferWaiting 1 true (modLoad 1 (fun _ => startedLoad ⟨nameA, 1⟩ entryA)
        { floorB [] with buffers := Vector.replicate 8 (.reserved 0 0) }) →
      gives (exec (.lineBreak 0) s) (fun t => t.buffers.get 0 = .reserved 1 0 && t.buffers.get 1 = .reserved 1 256
        && t.buffers.get 2 = .free && (t.load 1).wants = [0, 256]) := by
  refine ⟨by decide +kernel, ?_⟩
  rintro _ rfl; decide +kernel

theorem test_meets_SitesContactorAndFlagsAreSet :
    (∀ k ∈ [0, 7], Nat.testBit 0x81 k) ∧ 0x81 ≤ 255 ∧ Nat.testBit 0x100 8 ∧ 7 < 8
    ∧ (∀ s, s = floorA (workA 2 5) (cellW .running true) → s.takes 1 ∧ (s.cell 0).configured ∧ s.waitList = []
      ∧ (s.cell 0).state = .running)
    ∧ SiteSet.has (SiteSet.add 0 7) 7 ∧ SiteSet.has (SiteSet.add 0 7) 0 = false
    ∧ ∀ s, s = floorA none (cellA .idle) → s.takes 1 ∧ (s.cell 0).configured ∧ s.waitList = [] ∧ (s.cell 0).state = .idle
      ∧ (s.cell 0).pendingSlot = none := by
  refine ⟨by decide, by decide, by decide, by decide, ?_, by decide, by decide, ?_⟩ <;> (rintro _ rfl; decide +kernel)

/-! ### Hypotheses met: station frames -/

theorem test_meets_HelloBringsTheLinkUp :
    (validName nameA ∧ (8 : Nat) = 8 ∧ (7 : ClassSet) ≠ 0 ∧ (7 : ClassSet).toNat ≤ 7 ∧ validKit nameA)
    ∧ (8 : ClassSet).toNat > 7 ∧ validKit (letters 9) = false ∧ (State.reset.cell 0).configured = false
    ∧ (floorD.cell 0).stationName ≠ some nameB
    ∧ ∀ st ∈ [CellState.offline, .down, .idle, .running], (floorA none (cellA st)).cell 0 = cellA st
      ∧ (cellA st).stationName = some nameA ∧ (cellA st).configured ∧ (cellA st).state = st := by decide +kernel

/-- Each clause of KIT: the kit that is wanted and another one, by the state of the cell. -/
theorem test_meets_KitFramesActByState :
    (validKit nameA ∧ validKit nameB ∧ entryA.state = .approved)
    ∧ (∀ st ∈ [CellState.loading, .purging, .draining, .down, .offline, .paused, .running, .soaking, .reserved], ∀ b ∈ [true, false],
      ∀ s, s = floorA (workA 10 0) (cellW st b) → (s.cell 0).linkUp ∧ (s.cell 0).state = st ∧ (s.cell 0).runStarted = b
      ∧ s.wantedKit 0 = some nameA ∧ s.wantedKit 0 ≠ some nameB ∧ (s.cell 0).pendingSlot = none
      ∧ s.currentWork 0 = some (⟨0, 1⟩, lotA .active .stepOpen [] (portionA (.atCell 0) 10 0), portionA (.atCell 0) 10 0, stepA)
      ∧ stepA.kit = nameA ∧ (s.cell 0).pause.isEmpty ∧ (s.cell 0).program = some ⟨nameA, 1⟩ ∧ s.entry nameA 1 = some entryA)
    ∧ (∀ s, s = floorA (workA 10 0) { cellW .reserved false with program := none } →
      (s.cell 0).program ≠ some ⟨nameA, 1⟩ ∧ (s.cell 0).state = .reserved)
    ∧ (PauseSet.isEmpty ⟨false, false, true⟩ = false)
    ∧ (validKit (letters 9) = false ∧ ((floorA none { cellA .idle with linkUp := false }).cell 0).linkUp = false)
    ∧ ∀ s, s = floorA none (cellA .idle) → (s.cell 0).state = .idle ∧ s.waitList = [] := by
  refine ⟨by decide +kernel, fun st h b k s e => ?_, fun s e => ?_, rfl, by decide +kernel, fun s e => ?_⟩ <;> subst e
  · revert st b; decide +kernel
  · decide +kernel
  · decide +kernel

theorem test_meets_PurgesEndTheRun_discarded : ∀ s, s = floorA none (cellA .idle) →
    (s.cell 0).linkUp ∧ (s.cell 0).state ≠ .purging := by rintro _ rfl; decide +kernel

theorem test_meets_PurgesEndTheRun_empty : ∀ b ∈ [true, false], ∀ s,
    s = floorA none { cellA .purging with downAfterPurge := b, purgeTimer := some 600 } →
    (s.cell 0).linkUp ∧ (s.cell 0).state = .purging ∧ (s.cell 0).current = none ∧ (s.cell 0).pendingSlot = none ∧ s.waitList = []
    ∧ (s.cell 0).purgeTimer ≠ none := by
  intro b h s e; subst e; revert b; decide +kernel

theorem test_meets_PurgesEndTheRun : ∀ n ∈ [1, 5], ∀ s, s = floorA (workA 0 5) { cellW .purging true with downAfterPurge := true } →
    (s.cell 0).state = .purging ∧ (s.cell 0).downAfterPurge ∧ (s.cell 0).current = some ⟨0, 1⟩ ∧ s.lot 0 = workA 0 5
    ∧ (BitVec.ofNat 16 n).toNat ≤ (portionA (.atCell 0) 0 5).h ∧ 0 < (portionA (.atCell 0) 0 5).r + (BitVec.ofNat 16 n).toNat
    ∧ s.noCellWaits := by
  intro n h s e; subst e; revert n; decide +kernel

/-- A count above H, a lot that is SCRAPPING, a portion without units left, and one that keeps units at a timeout. -/
theorem test_meets_PurgesEndTheRun_more :
    (∀ s, s = floorA (workA 2 5) { cellW .purging true with downAfterPurge := true, purgeTimer := some 600 } →
      (s.cell 0).current = some ⟨0, 1⟩ ∧ s.lot 0 = workA 2 5 ∧ (portionA (.atCell 0) 2 5).h < (6 : BitVec 16).toNat
      ∧ 0 < (portionA (.atCell 0) 2 5).r ∧ (s.cell 0).purgeTimer ≠ none ∧ (s.cell 0).pendingSlot = none ∧ s.noCellWaits)
    ∧ (∀ l, l = lotA .active .stepOpen [] (portionA (.atCell 0) 2 5) → l.portion 1 = some (portionA (.atCell 0) 2 5)
      ∧ (l.portions.map (·.number)).Nodup ∧ (∀ q ∈ l.portions, q.number ≠ 1 → q.placed = false) ∧ l.state.direct = false)
    ∧ (lotA .scrapping .stepOpen [] (portionA (.atCell 0) 2 5)).state = .scrapping
    ∧ ∀ s, s = floorA (workA 0 0) { cellW .purging true with downAfterPurge := true, purgeTimer := some 600 } →
      (portionA (.atCell 0) 0 0).r = 0 ∧ (s.cell 0).state = .purging ∧ (s.cell 0).downAfterPurge ∧ (s.cell 0).linkUp := by
  refine ⟨?_, ?_, rfl, ?_⟩ <;> (rintro _ rfl; decide +kernel)

/-- A purge that ends in IDLE on a cell with MAINTENANCE-DUE, and a pending portion that may move, or may not. -/
theorem test_meets_PurgesEndTheRun_idle :
    (∀ s, s = floorA (workA 2 5) { cellW .purging true with maintenanceDue := true, purgeTimer := some 600 } →
      (s.cell 0).maintenanceDue ∧ (s.cell 0).pendingSlot = none ∧ (s.cell 0).downAfterPurge = false ∧ (s.cell 0).state = .purging)
    ∧ ∀ due ∈ [true, false], ∀ l, l = lotA .active .stepOpen [] (portionA (.pending 0) 10 0) → ∀ s,
      s = { floorA (workA 0 8) { cellW .purging true with pendingSlot := some ⟨1, 1⟩, maintenanceDue := due } with
        lots := (State.reset.lots.set 0 (workA 0 8)).set 1 (some l) } →
      (s.cell 0).linkUp ∧ (s.cell 0).state = .purging ∧ (s.cell 0).downAfterPurge = false ∧ (s.cell 0).pendingSlot = some ⟨1, 1⟩
      ∧ s.work ⟨1, 1⟩ = some (l, portionA (.pending 0) 10 0, stepA) ∧ (portionA (.pending 0) 10 0).revision = some 1 ∧ s.noCellWaits
      ∧ (s.cell 0).current = some ⟨0, 1⟩ ∧ s.lot 0 = workA 0 8 ∧ (3 : BitVec 16).toNat ≤ 8 ∧ l.holds = []
      ∧ (s.cell 0).maintenanceDue = due ∧ (s.cell 0).pause.jam = false ∧ (s.cell 0).pause.operator = false
      ∧ (s.cell 0).kit = some stepA.kit ∧ (s.cell 0).program = some ⟨stepA.program, 1⟩ ∧ s.approved stepA.program 1
      ∧ stepA.minSites ≤ SiteSet.size (s.cell 0).enabled ∧ (s.port 0).tx = none ∧ (s.port 0).txList = [] := by
  refine ⟨by rintro _ rfl; decide +kernel, ?_⟩
  intro due h l e s d; subst e; subst d; revert due; decide +kernel

theorem test_meets_SoakAndDwellLeadToTheRun :
    (∀ b ∈ [true, false], ∀ s, s = floorA (workA 10 0) { cellW .soaking b with soakTimer := some 60, dwellTimer := some 0 } →
      (s.cell 0).linkUp ∧ s.waitList = [] ∧ (s.cell 0).state = .soaking ∧ (s.cell 0).soakTimer ≠ none ∧ (s.cell 0).dwellTimer ≠ none
      ∧ (s.currentWork 0).isSome ∧ (s.cell 0).runStarted = b ∧ (s.cell 0).pendingSlot = none)
    ∧ ∀ s, s = floorA none (cellA .idle) → (s.cell 0).linkUp ∧ s.waitList = [] ∧ (s.cell 0).state ≠ .soaking := by
  refine ⟨fun b h s e => ?_, fun s e => ?_⟩ <;> subst e
  · revert b; decide +kernel
  · decide +kernel

/-- The soak timer runs for a portion whose run has not started, and no cell waits. -/
theorem test_meets_SoakAndDwellLeadToTheRun_not_started :
    ∀ s, s = floorA (workA 10 0) { cellW .soaking false with soakTimer := some 60 } →
      s.noCellWaits ∧ (s.cell 0).state = .soaking ∧ (s.cell 0).soakTimer ≠ none ∧ (s.cell 0).runStarted = false
      ∧ (s.cell 0).pendingSlot = none ∧ (s.cell 0).current = some ⟨0, 1⟩ ∧ (s.lot 0).map (·.state) = some .active
      ∧ ((s.lot 0).bind fun l => l.portion 1) = some (portionA (.atCell 0) 10 0) := by
  intro s e; subst e; decide +kernel

/-- A record of a site result. -/
def recordA (site bin : Byte) : IntakeRecord := ⟨.siteResult, 1, site, bin, 0, .ok, []⟩

/-- The floor at work with a record list in the port's queue. -/
def floorI (up : Bool) (queue : List IntakeRecord) : State :=
  modPort 0 (fun p => { p with queue := queue, runOpen := true }) (floorA (workA 0 8) { cellW .running true with linkUp := up })

theorem test_meets_ResultsJoinTheIntakeQueue :
    (((floorI true (List.replicate 15 (recordA 0 1))).cell 0).linkUp
      ∧ ((floorI true (List.replicate 15 (recordA 0 1))).port 0).queue.length < 16)
    ∧ (((floorI true (List.replicate 16 (recordA 0 1))).cell 0).linkUp
      ∧ 16 ≤ ((floorI true (List.replicate 16 (recordA 0 1))).port 0).queue.length)
    ∧ ((floorI false []).cell 0).linkUp = false ∧ [(1 : Byte)].length ≠ 5 ∧ (List.replicate 5 (1 : Byte)).length ≠ 4 := by decide +kernel

theorem test_meets_RunEndClosesTheRun :
    ((floorA none (cellA .idle)).cell 0).linkUp ∧ ((floorA none (cellA .idle)).port 0).runOpen = false
    ∧ ((floorI true [recordA 0 1]).port 0).queue ≠ []
    ∧ (∀ s, s = floorI true [] → (s.cell 0).linkUp ∧ (s.port 0).runOpen ∧ (s.port 0).queue = [] ∧ (s.port 0).groupCount = 0
      ∧ (s.cell 0).current = some ⟨0, 1⟩ ∧ (s.cell 0).state = .running ∧ (0 : BitVec 16).toNat = (s.cell 0).runTested
      ∧ (0xFFFF : BitVec 16) = (s.port 0).resultCheck ∧ (1 : BitVec 16).toNat ≠ (s.cell 0).runTested ∧ s.lot 0 = workA 0 8)
    ∧ (lotA .active .stepOpen [] (portionA (.atCell 0) 0 8)).state.direct = false
    ∧ (lotA .active .stepOpen [] (portionA (.atCell 0) 0 8)).pendingCells = [] := by
  refine ⟨by decide +kernel, by decide +kernel, by decide +kernel, ?_, by decide, by decide⟩
  rintro _ rfl; decide +kernel

/-- A partial group of a production result, which damages the portion, and one of a setup result, which does not. -/
theorem test_meets_RunEndClosesTheRun_partial : ∀ f ∈ [(0 : Byte), 1], ∀ s,
    s = modPort 0 (fun p => { p with group := [{ recordA 0 1 with flags := f }], groupCount := 1 }) (floorI true []) →
    (s.cell 0).linkUp ∧ (s.port 0).runOpen ∧ (s.port 0).queue = [] ∧ (s.cell 0).current = some ⟨0, 1⟩ ∧ (s.cell 0).state = .running
    ∧ ((s.port 0).groupCount != 0 && !(s.port 0).group.all fun q => q.status ≠ .malformed && q.flags.getLsbD 0) = (f == 0) := by
  intro f h s e; subst e; revert f; decide +kernel

theorem test_meets_CellLineEvents :
    (∀ up ∈ [true, false], ∀ s, s = modPort 0 (fun p => { p with silence := some 6, tx := some .purge })
        (floorA none { cellA .idle with linkUp := up }) →
      (s.cell 0).linkUp = up ∧ (s.cell 0).current = none ∧ (s.cell 0).pendingSlot = none ∧ (s.load 0).active = false
      ∧ (s.port 0).silence ≠ none ∧ (s.port 0).tx = some .purge)
    ∧ (State.reset.port 0).tx = none ∧ (State.reset.port 0).silence = none ∧ (State.reset.port 0).rx.candidate = none
    ∧ judgeCell [0xFF, 0xFF] = .failed ∧ judgeCell [0x5A] = .incomplete
    ∧ judgeCell (cellFrame 0x43 [7]).tail = .proved [0x43, 7] [] := by
  refine ⟨fun up h s e => ?_, by decide +kernel⟩
  subst e; revert up; decide +kernel

/-- A link lost with work: a portion whose run has not started, one whose run has started or whose cell purges, each with its load active;
and a pending portion. -/
theorem test_meets_CellLineEvents_with_work :
    (∀ st ∈ [(CellState.reserved, false), (.loading, false), (.soaking, false), (.paused, false), (.running, true), (.purging, false),
        (.draining, true)], ∀ s, s = modPort 0 (fun p => { p with silence := some 6 })
          { modLoad 0 (fun d => { d with state := .wanting, wants := [0] }) (floorA (workA 2 5) (cellW st.1 st.2)) with
            buffers := State.reset.buffers.set 0 (.reserved 0 0) } →
      (s.cell 0).linkUp ∧ s.noCellWaits ∧ (s.port 0).silence ≠ none ∧ (s.cell 0).state = st.1 ∧ (s.cell 0).runStarted = st.2
      ∧ (s.cell 0).pendingSlot = none ∧ (s.cell 0).current = some ⟨0, 1⟩ ∧ (s.lot 0).map (·.state) = some .active
      ∧ ((s.lot 0).bind fun l => l.portion 1) = some (portionA (.atCell 0) 2 5) ∧ (s.load 0).active
      ∧ ∀ d : CellId, s.bufferWaiting.get d = false)
    ∧ ∀ s, s = floorA (some (lotA .active .stepOpen [] (portionA (.pending 0) 10 0)))
        { cellA .running with current := some ⟨1, 1⟩, runStarted := true, pendingSlot := some ⟨0, 1⟩ } →
      (s.cell 0).linkUp ∧ s.noCellWaits ∧ (s.cell 0).runStarted ∧ (s.cell 0).pendingSlot = some ⟨0, 1⟩
      ∧ ((s.lot 0).bind fun l => l.portion 1) = some (portionA (.pending 0) 10 0) := by
  refine ⟨fun st h s e => ?_, fun s e => ?_⟩ <;> subst e
  · revert st; decide +kernel
  · decide +kernel

/-- A complete production group of the sites 0 and 3, then its GROUP-END; and a lone record of each status. -/
theorem test_meets_RecordsAreTakenAndTallied :
    (∀ st ∈ [RecordStatus.ok, .malformed, .siteBad, .dupSite, .setupLate, .stray], ∀ s, s = floorI true [{ recordA 0 1 with status := st }] →
      (s.port 0).queue = { recordA 0 1 with status := st } :: [] ∧ (recordA 0 1).marks = [] ∧ (s.port 0).group.length ≤ 8)
    ∧ (∀ rs, rs = [recordA 0 1, recordA 3 16] → ∀ r, r = ⟨.groupEnd, 1, 2, 0, 0, .ok, []⟩ →
      ∀ s, s = modPort 0 (fun p => { p with group := rs, groupCount := 2, lastTouchdown := some 0 }) (floorI true [r]) →
      (s.port 0).queue = r :: [] ∧ (s.port 0).groupCount = rs.length ∧ rs.length = r.site.toNat
      ∧ (∀ q ∈ rs, q.status = .ok ∧ q.touchdown = r.touchdown ∧ q.flags = 0) ∧ (rs.map (·.site)).Nodup
      ∧ (s.port 0).lastTouchdown = some (r.touchdown - 1) ∧ (s.currentWork 0).isSome ∧ passOf 1 = .first
      ∧ rs.length ≤ (portionA (.atCell 0) 0 8).h ∧ stepA.limits.consecFail = 0 ∧ (s.cell 0).tallyInterval = 0
      ∧ (s.tally 0).first.sum + rs.length < stepA.limits.minSample ∧ (∀ q ∈ rs, 1 ≤ q.bin.toNat ∧ q.bin.toNat ≤ 16)
      ∧ (s.cell 0).contactorLimit = 0)
    ∧ passOf 9 = .retest
    ∧ (∀ f ∈ [(0 : Byte), 1], ∀ s, s = floorI true [⟨.groupEnd, 1, 2, 0, f, .ok, []⟩] → (s.port 0).groupCount ≠ (2 : Byte).toNat
      ∧ (s.port 0).lastTouchdown = none ∧ (s.cell 0).current = some ⟨0, 1⟩)
    ∧ ((floorI true [⟨.groupEnd, 1, 0, 0, 0, .malformed, []⟩]).cell 0).current = some ⟨0, 1⟩ := by
  refine ⟨fun st h s e => ?_, ?_, rfl, fun f h s e => ?_, by decide +kernel⟩
  · subst e; revert st; decide +kernel
  · rintro _ rfl _ rfl _ rfl; decide +kernel
  · subst e; revert f; decide +kernel

/-- A complete group of one flag, its GROUP-END at the head of the queue; the cell is brought to a case. -/
def floorG (rs : List IntakeRecord) (f : Byte) (h : Nat) (x : Cell → Cell) : State :=
  modPort 0 (fun p => { p with group := rs, groupCount := rs.length, queue := [⟨.groupEnd, 1, BitVec.ofNat 8 rs.length, 0, f, .ok, []⟩] })
    (floorA (workA 0 h) (x (cellW .running true)))

/-- A group that brings its site to the limit of 2, with sites left or too few; one above H; a setup group, below and at the limit. -/
theorem test_meets_RecordsAreTakenAndTallied_more :
    (∀ off ∈ [(0 : SiteSet), 0b1101], ∀ s, s = { floorG [recordA 1 16] 0 8 (fun x => { x with siteOff := off, consec := x.consec.set 1 1 }) with
        products := State.reset.products.set 0 (some { productA with steps := [{ stepA with limits := { stepA.limits with consecFail := 2 } }] }) } →
      (s.currentWork 0).map (·.2.2.2.limits.consecFail) = some 2 ∧ (s.port 0).group = [recordA 1 16] ∧ (s.port 0).lastTouchdown = none
      ∧ (recordA 1 16).site.toNat = 1 ∧ (recordA 1 16).bin ≠ 1 ∧ (s.cell 0).consec.get 1 + 1 = 2 ∧ SiteSet.has off 1 = false
      ∧ (s.cell 0).siteOff = off ∧ (s.cell 0).pendingSlot = none ∧ (s.cell 0).linkUp ∧ (s.port 0).tx = none ∧ (s.port 0).txList = []
      ∧ ((s.cell 0).inRun && SiteSet.size (Cell.enabled { s.cell 0 with siteOff := SiteSet.add off 1 }) < stepA.minSites) = (off != 0))
    ∧ (∀ s, s = floorG [recordA 0 1, recordA 3 1] 0 1 id → (s.currentWork 0).map (·.2.2.1.h) = some 1
      ∧ (lotA .active .stepOpen [] (portionA (.atCell 0) 0 1)).state.direct = false
      ∧ (lotA .active .stepOpen [] (portionA (.atCell 0) 0 1)).pendingCells = [] ∧ LotState.direct .scrapping)
    ∧ (∀ n ∈ [998, 999], ∀ s, s = floorG [{ recordA 0 1 with flags := 1 }] 1 8 (fun x => { x with contactorLimit := 1000, lifetime := n }) →
      (s.port 0).group.length = 1 ∧ (s.cell 0).maintenanceDue = false
      ∧ ((s.cell 0).contactorLimit ≤ satInc 4294967295 (s.cell 0).lifetime ↔ n = 999) ∧ (s.cell 0).pendingSlot = none)
    ∧ (∀ s, s = floorG [recordA 0 1] 0 8 (fun x => { x with tallyInterval := 1 }) → (s.cell 0).tallyInterval ≠ 0
      ∧ satInc 65535 (s.runGroups.get 0) % 1 = 0)
    ∧ ∀ s, s = modPort 0 (fun p => { p with heldRunEnd := some ⟨0, 0xFFFF⟩ })
        (floorI true [{ recordA 0 1 with marks := [.endFollows] }]) →
      (s.port 0).heldRunEnd = some ⟨0, 0xFFFF⟩ ∧ (s.cell 0).current = some ⟨0, 1⟩ ∧ (s.cell 0).endsRun
      ∧ (0 : BitVec 16).toNat = (s.cell 0).runTested ∧ (0xFFFF : BitVec 16) = (s.port 0).resultCheck
      ∧ ((floorI true [{ recordA 0 1 with marks := [.jamFollows] }]).port 0).queue.map (·.marks) = [[.jamFollows]] := by
  refine ⟨fun off h s e => ?_, by rintro _ rfl; decide +kernel, fun n h s e => ?_, by rintro _ rfl; decide +kernel, by rintro _ rfl; decide +kernel⟩
    <;> subst e
  · revert off; decide +kernel
  · revert n; decide +kernel

/-- A group of two after a touchdown gap, SEQ-GAP clear or set, that brings T to M with the yield below its floor: it is evaluated. -/
theorem test_meets_RecordsAreTakenAndTallied_evaluated :
    ∀ b ∈ [true, false], ∀ s, s = modPort 0 (fun p => { p with lastTouchdown := some 7, flags := { p.flags with seqGap := b } })
        { floorG [recordA 0 1, recordA 3 16] 0 8 id with
          products := State.reset.products.set 0 (some { productA with steps := [{ stepA with limits := { stepA.limits with minSample := 2 } }] }) } →
      ((s.port 0).lastTouchdown ≠ none ∧ (s.port 0).lastTouchdown ≠ some ((1 : BitVec 16) - 1) ∧ (s.port 0).flags.seqGap = b)
      ∧ (s.port 0).group = [recordA 0 1, recordA 3 16] ∧ (s.currentWork 0).map (·.2.2.2.limits.minSample) = some 2 ∧ passOf 1 = .first
      ∧ (s.tally 0).first.sum + 2 = 2 ∧ fraction 1 2 < 900000 ∧ (s.tally 0).flag .yield = none ∧ s.host.reports.length ≤ 61
      ∧ (s.cell 0).contactorLimit = 0 ∧ ∀ q ∈ [recordA 0 1, recordA 3 16], q.status = .ok ∧ q.touchdown = 1 ∧ 1 ≤ q.bin.toNat ∧ q.bin.toNat ≤ 16 := by
  intro b h s e; subst e; revert b; decide +kernel

/-! ### Hypotheses met: loads -/

/-- The floor with a cell that loads the step's program of 300 bytes. -/
def floorL (st : LoadState) (wants inFlight : List Nat) (relayed failures : Nat) : State :=
  modLoad 0 (fun d => { d with
      program := some ⟨nameA, 1⟩, length := 300, catalogCheck := some 0, nextWant := 300, wants := wants, inFlight := inFlight
      relayed := relayed, relayedCheck := some 0, state := st, checkTimer := true })
    (floorA (workA 10 0) { cellW .loading false with program := none, loadFailures := failures, pause := ⟨false, false, failures == 0⟩ })

theorem test_meets_LoadDataRelaysTheOldestWant :
    (List.replicate 0 (0 : Byte) = [] ∧ 256 < (List.replicate 257 (0 : Byte)).length ∧ 16 ≤ (16 : Byte).toNat)
    ∧ ((15 : Byte).toNat = (15 : CellId).val ∧ (256 : BitVec 24).toNat = 256 ∧ (List.replicate 44 (0 : Byte)) ≠ [] ∧ (List.replicate 256 (0 : Byte)).length ≤ 256)
    ∧ (State.reset.takes 1 ∧ (State.reset.load 0).wants = [])
    ∧ ∀ s, s = { floorL .wanting [0, 256] [] 0 0 with buffers := (State.reset.buffers.set 1 (.reserved 0 256)).set 5 (.reserved 0 0) } →
      s.takes 1 ∧ (s.load 0).wants = 0 :: [256] ∧ 256 ≠ 0 ∧ (List.replicate 44 (0 : Byte)).length ≠ min 256 ((s.load 0).length - 0)
      ∧ (List.replicate 256 (0 : Byte)).length = min 256 ((s.load 0).length - 0)
      ∧ s.buffers.get 5 = .reserved 0 0 ∧ (∀ a, a < 5 → s.buffers.get a ≠ .reserved 0 0)
      ∧ (floorL .relaying [256] [0] 256 0).load 0 = { s.load 0 with wants := [256], inFlight := [0], relayed := 256, state := .relaying }
      ∧ (List.replicate 44 (0 : Byte)).length = min 256 (300 - 256) := by
  refine ⟨by decide +kernel, by decide +kernel, by decide +kernel, ?_⟩
  rintro _ rfl; decide +kernel

theorem test_meets_AcknowledgedBlocksFreeTheirBuffers :
    (((floorA none (cellA .idle)).cell 0).linkUp ∧ ((floorA none (cellA .idle)).load 0).state ≠ .relaying)
    ∧ (∀ s, s = floorL .relaying [] [0, 256] 300 0 → (s.cell 0).linkUp ∧ (s.load 0).state = .relaying
      ∧ (0 : BitVec 24).toNat ∈ (s.load 0).inFlight ∧ (∀ d : CellId, s.bufferWaiting.get d = false)
      ∧ (s.load 0).length ≤ (s.load 0).nextWant ∧ (s.load 0).inFlight.erase (0 : BitVec 24).toNat ≠ [])
    ∧ (∀ s, s = floorL .relaying [] [256] 300 0 → (s.load 0).relayed = (s.load 0).length ∧ (s.load 0).inFlight = [(256 : BitVec 24).toNat])
    ∧ ∀ s, s = { modLoad 0 (fun d => { d with length := 700, nextWant := 512 }) (floorL .relaying [256] [0] 256 0) with
        buffers := (State.reset.buffers.set 0 (.reserved 0 256)).set 1 (.filled 0 0 [7]) } →
      (s.load 0).nextWant < (s.load 0).length ∧ (s.load 0).held = 2 ∧ (s.load 0).relayed ≠ (s.load 0).length
      ∧ s.buffers.get 1 = .filled 0 0 [7] ∧ (∀ a, a < 1 → (s.buffers.get a).holdsBlock 0 0 = false)
      ∧ (freeBlock 0 0 s).buffers.get 1 = .free ∧ ∀ a, a < 1 → (freeBlock 0 0 s).buffers.get a ≠ .free := by
  refine ⟨by decide +kernel, ?_, ?_, ?_⟩ <;> (rintro _ rfl; decide +kernel)

/-- Two loads wait beside the acknowledged one: from pointer 7 load 12 comes first, from 12 load 3, from 15 the acknowledged load 0. -/
theorem test_meets_AcknowledgedBlocksFreeTheirBuffers_waiting :
    ∀ v ∈ [((7 : CellId), (12 : CellId)), (12, 3), (15, 0)], ∀ s, s = { modLoad 0 (fun d => { d with
          length := if v.1 = 12 then 300 else 700, nextWant := if v.1 = 12 then 300 else 512 })
        (floorL .relaying [] [0] 300 0) with
        buffers := Vector.ofFn fun (i : Fin 8) => if i = 3 then .filled 0 0 [7] else .reserved 9 i.val
        grantPointer := v.1, bufferWaiting := ((Vector.replicate 16 false).set 3 true).set 12 true } →
      (s.load 0).state = .relaying ∧ (0 : BitVec 24).toNat ∈ (s.load 0).inFlight ∧ (freeBlock 0 0 s).buffers.toList.count .free = 1
      ∧ (freeBlock 0 0 s).buffers.get 3 = .free
      ∧ (∀ waits : CellId → Bool, waits = (fun d => s.bufferWaiting.get d
          || (d = 0 && decide ((s.load 0).nextWant < (s.load 0).length) && decide ((s.load 0).held ≤ 2))) →
        waits v.2 ∧ ∀ d, waits d → (v.2 - (s.grantPointer + 1)).val ≤ (d - (s.grantPointer + 1)).val)
      ∧ ((s.load 0).relayed = (s.load 0).length ↔ v.1 = 12) ∧ (s.load 0).inFlight = [(0 : BitVec 24).toNat] := by
  intro v h s e; subst e
  refine ⟨?_, ?_, ?_, ?_, ?_, ?_, ?_⟩
  case refine_5 => rintro _ rfl; revert v; decide +kernel
  all_goals (revert v; decide +kernel)

/-- Each failure that counts, at a third failure and at a first one of a cell that an operator has paused. -/
theorem test_meets_FailedLoadsReturnThePortion : ∀ n ∈ [0, 2],
    (∀ s, s = floorL .relaying [256] [0] 256 n → (s.cell 0).state = .loading ∧ (s.load 0).active ∧ (s.cell 0).linkUp
      ∧ (s.load 0).state = .relaying ∧ (0 : BitVec 24).toNat ∈ (s.load 0).inFlight ∧ 256 ∈ (s.load 0).wants
      ∧ 256 ∉ (s.load 0).inFlight ∧ 0 ∉ (s.load 0).wants
      ∧ (s.cell 0).current = some ⟨0, 1⟩ ∧ s.lot 0 = workA 10 0 ∧ 0 < (portionA (.atCell 0) 10 0).r ∧ s.noCellWaits
      ∧ (2 ≤ (s.cell 0).loadFailures ∨ (s.cell 0).pause.operator)
      ∧ ¬ ((s.load 0).state = .verifying ∧ (s.load 0).checkTimer) ∧ ∀ d : CellId, d ≠ 0 → s.bufferWaiting.get d = false)
    ∧ ∀ s, s = floorL .verifying [] [] 300 n → (s.load 0).active ∧ (s.load 0).state = .verifying ∧ (s.load 0).checkTimer
      ∧ (s.load 0).relayedCheck = (s.load 0).catalogCheck ∧ (s.load 0).relayedCheck ≠ some 1
      ∧ (modLoad 0 (fun d => { d with relayedCheck := some 1 }) s).load 0 ≠ s.load 0 := by
  intro n h
  refine ⟨fun s e => ?_, fun s e => ?_⟩ <;> subst e <;> revert n <;> decide +kernel

theorem test_meets_GoodChecksLoadTheProgram :
    ((floorA none (cellA .idle)).load 0).state ≠ .verifying
    ∧ ∀ s, s = floorL .verifying [] [] 300 1 → (s.cell 0).linkUp ∧ (s.load 0).state = .verifying ∧ (s.load 0).catalogCheck = some 0
      ∧ (s.load 0).relayedCheck = some 0 ∧ (s.cell 0).state = .loading ∧ (s.currentWork 0).isSome ∧ (s.cell 0).kit = some stepA.kit
      ∧ (s.cell 0).pause.isEmpty ∧ (portionA (.atCell 0) 10 0).revision = some 1 ∧ (s.load 0).program = some ⟨stepA.program, 1⟩ := by
  refine ⟨by decide +kernel, ?_⟩
  rintro _ rfl; decide +kernel

/-- A good check of a cell whose kit has been taken off, and of one that an operator has paused. -/
theorem test_meets_GoodChecksLoadTheProgram_other : ∀ s, s = floorL .verifying [] [] 300 0 →
    (s.cell 0).kit = some stepA.kit ∧ (s.cell 0).pause.isEmpty = false
    ∧ ((modCell 0 (fun x => { x with kit := none }) s).cell 0).kit ≠ some stepA.kit := by
  rintro _ rfl; decide +kernel

/-! ### Hypotheses met: dispatch, tally and release -/

/-- Three lots wait: one of a lower band, one that has reached the aging limit, and one ahead of it. -/
def floorW (skip : Nat) : State :=
  { floorA (some (lotW [])) (cellA .idle) with
    lots := (State.reset.lots.set 0 (some (lotW []))).set 1 (some { lotW [] with id := nameB, regNo := 1 })
    waitList := [⟨0, 1, 0, 0⟩, ⟨1, 1, 0, skip⟩, ⟨0, 0, 0, 0⟩] }

theorem test_meets_OffersGoToTheBestEntry_aging : (queued 7 8).takes 1 := by decide +kernel

theorem test_meets_OffersGoToTheBestEntry :
    (∃ w, winner (floorW 4) 0 = some w ∧ (floorW 4).agingLimit ≤ w.skip)
    ∧ (∃ w, winner (floorW 3) 0 = some w ∧ setupMatch (floorW 3) 0 w ∧ w.skip < (floorW 3).agingLimit)
    ∧ (floorW 4).waitList.Pairwise (fun a b => b.priority ≤ a.priority)
    ∧ (floorW 4).waitList.Pairwise (fun a b => entryBefore (floorW 4) b a = false)
    ∧ winner State.reset 0 = none :=
  ⟨⟨⟨1, 1, 0, 4⟩, by decide +kernel⟩, ⟨⟨0, 1, 0, 0⟩, by decide +kernel⟩, by decide +kernel, by decide +kernel, by decide +kernel⟩

theorem test_meets_BaselinesLearnTheCeiling_set :
    floorD.takes 1 ∧ validCode nameA ∧ floorD.findProduct nameA = some 0 ∧ floorD.product 0 = some { productA with live := 0 }
    ∧ productA.step 1 = some stepA
    ∧ stepA.limits.entries.find? (fun e => e.bin = 2) = some ⟨2, 50000, 1000, .learned, 16, .masked⟩ := by decide +kernel

/-- A lot that waits, and a cell that waits for it: IDLE with each setup, or RUNNING with a portion of the same setup. -/
def floorP (x : Cell) : State :=
  { floorA (some (lotW [])) x with
    waitList := [⟨0, 1, 0, 0⟩], waiting := State.reset.waiting.set 0 true }

theorem test_meets_PlacementsFillTheSlot :
    (∀ x ∈ [cellA .idle, { cellA .idle with kit := none }, { cellA .idle with program := none }, { cellA .idle with pause := ⟨false, true, false⟩ }],
      ∀ s, s = floorP x → s.waiting.get 0 ∧ (∀ d, d ≠ 0 → s.waiting.get d = false) ∧ winner s 0 = some ⟨0, 1, 0, 0⟩
      ∧ s.lot 0 = some (lotW []) ∧ s.stepOf (lotW []) = some stepA ∧ (lotW []).queuedPortions.head? = some (portionA .queued 10 0)
      ∧ ((lotW []).portions.map (·.number)).Nodup ∧ (s.cell 0).state = .idle ∧ (s.cell 0).current = none)
    ∧ (∀ s, s = { floorP { cellA .running with current := some ⟨1, 1⟩ } with
        lots := (State.reset.lots.set 0 (some (lotW []))).set 1 (workA 0 8) } →
      winner s 0 = some ⟨0, 1, 0, 0⟩ ∧ (s.cell 0).state = .running ∧ (s.cell 0).pendingSlot = none)
    ∧ State.reset.noCellWaits ∧ winner State.reset 0 = none ∧ (State.reset.cell 0).state = .offline := by
  refine ⟨fun x h s e => ?_, ?_, by decide +kernel⟩
  · subst e; revert x; decide +kernel
  · rintro _ rfl; decide +kernel

/-- Each evaluation class, a condition with its flag clear and one with it set, and a record of its reason. -/
theorem test_meets_LimitConditionsSetFlags :
    (∀ s, s = floorA (workA 0 8) (cellW .running true) → s.lot 0 = workA 0 8 ∧ s.stepOf (lotA .active .stepOpen [] (portionA (.atCell 0) 0 8)) = some stepA
      ∧ (s.tally 0).first.sum = 0 ∧ (s.tally 0).flag .yield = none ∧ (s.tally 0).flag (.bin 16) = none ∧ (s.tally 0).waive.has .yield = false
      ∧ fraction ((s.tally 0).first.bin 1) 100 < stepA.limits.yieldFloor)
    ∧ (10 < stepA.limits.minSample ∧ countsA.sum = 10 ∧ stepA.limits.minSample ≤ 100)
    ∧ (∀ f, f = ⟨1, 0, 0, 1⟩ → ((LotStepRec.empty.setFlag (.bin 2) (some f)).flag (.bin 2) = some f))
    ∧ (lotW [holdA .yield]).heldFor .yield ∧ (lotW []).heldFor .binlimit = false ∧ (lotW []).pendingCells = []
    ∧ (0, 1) ∈ (lotA .active .stepOpen [] (portionA (.atCell 0) 0 8)).atCells := by
  refine ⟨?_, by decide +kernel, ?_, by decide +kernel, by decide +kernel, by decide +kernel, by decide +kernel⟩ <;>
    (rintro _ rfl; decide +kernel)

/-- The last portion of a first pass, without and with loss, and of a retest pass. -/
theorem test_meets_CompletedPassesMakeTheSummary : ∀ b ∈ [true, false], ∀ n ∈ [0, 2], ∀ l, l = { lotA .active .stepOpen []
      ⟨if b then 9 else 1, .done, 10, 10 - n, 0, n, 0, some 1, [1], 1, some 0, some 0, 0⟩ with retest := b } → ∀ s, s = floorQ l none →
    s.lot 0 = some l ∧ s.product l.product = some productA ∧ productA.step l.stepIndex = some stepA ∧ l.stepIndex ≤ 4 ∧ l.route = .stepOpen
    ∧ l.state.direct = false ∧ (∀ q ∈ l.portions, q.state = .done) ∧ s.noCellWaits ∧ s.summary 0 1 = some summaryA
    ∧ ((l.portions.filter fun q => passOf q.number = l.pass).map (·.l)).sum = n := by
  intro b h n k l e s d; subst d; subst e; revert b n; decide +kernel

/-- The one summary of that floor stands under its step index. -/
theorem test_meets_CompletedPassesMakeTheSummary_placed : ∀ l, (floorQ l none).summariesPlaced :=
  fun _ => setSummary_placed 0 summaryA (summariesPlaced_of_none rfl)

theorem test_meets_FractionsAreNearestPpm : (1 ≤ 1 ∧ 0 ≤ 1) ∧ 1 ≤ 65535 ∧ 65535 ≤ 65535 := by decide

theorem test_meets_BaselinesLearnTheCeiling :
    (2000 : Nat) ≤ 8000 ∧ 4 < 5 ∧ 5 ≤ 5 ∧ 4 * 1127 < 5 * 901 + 4 ∧ 5 * 901 ≤ 4 * 1127 ∧ 1 ≤ 8 ∧ 8 = min 8 (7 + 1) ∧ 8 = min 8 (255 + 1) := by
  decide

theorem test_meets_QaResultsMoveTheLot :
    (∀ l, l = lotA .qaWait .qaSample [] ⟨1, .done, 10, 10, 0, 0, 0, some 1, [1], 1, some 0, some 0, 0⟩ → ∀ s, s = floorQ l none →
      s.takes 1 ∧ s.findLot nameA = some 0 ∧ s.lot 0 = some l ∧ l.state = .qaWait ∧ l.holds = [] ∧ l.route = .qaSample
      ∧ l.portions.any Portion.placed = false ∧ s.inReleased 0 = false)
    ∧ (floorQ (lotC .complete) none).findLot nameA = some 0 ∧ (lotC .complete).state ≠ .qaWait := by
  refine ⟨?_, by decide +kernel⟩
  rintro _ rfl _ rfl; decide +kernel

theorem test_meets_ShipmentsAreAssembled :
    (floorD.takes 1 ∧ validName nameB ∧ validCode nameA ∧ floorD.findShip nameB = none ∧ floorD.findProduct nameA = some 0
      ∧ floorD.freeShip = some 0)
    ∧ (∀ s, s = floorQ (lotC .complete) (some { shipA .checking none with members := List.replicate 15 1 }) →
      s.findShip nameB = some 0 ∧ (s.ship 0).isSome ∧ s.findLot nameA = some 0 ∧ s.lot 0 = some (lotC .complete) ∧ s.shipOf 0 = none
      ∧ (lotC .complete).state.direct = false ∧ (List.replicate 15 (1 : LotSlot)).length < 16)
    ∧ ∀ st ∈ [ShipState.open, .released], ∀ s, s = floorQ (lotC .released) (some (shipA st (some 1))) →
      s.findShip nameB = some 0 ∧ (s.ship 0).map (·.state) = some st ∧ 0 ∈ (shipA st (some 1)).members
      ∧ (∀ y ∈ (shipA st (some 1)).members, s.shipOf y = some 0) ∧ (s.lot 0).map (fun l => (l.state, l.route)) = some (.released, .routeEnd) := by
  refine ⟨by decide +kernel, ?_, fun st h s e => ?_⟩
  · rintro _ rfl; decide +kernel
  · subst e; revert st; decide +kernel

/-- A shipment of five good lots, whose first check stops after four; one whose lot fails; a full ticket queue and one with a place. -/
theorem test_meets_ShipChecksLeadToTheTicket :
    (∀ n ∈ [0, 7, 8], ∀ s, s = { floorQ (lotC .complete) (some (shipA .open none)) with tickets := List.replicate n (ticketA 9) } →
      s.takes 1 ∧ s.findShip nameB = some 0 ∧ s.ship 0 = some (shipA .open none) ∧ (∀ y ∈ [(0 : LotSlot)], s.shipOf y = some 0)
      ∧ memberFailure s 0 = none ∧ s.tickets.length = n)
    ∧ (memberFailure (floorQ (lotW []) (some (shipA .open none))) 0 = some 1 ∧ (shipA .open none).members[0 + 0]? = some 0)
    ∧ ∀ s, s = { floorQ (lotC .complete) (some { shipA .open none with members := [0, 1, 2, 3, 4] }) with
        lots := Vector.replicate 128 (some (lotC .complete)), summaries := Vector.replicate 128 (#v[some summaryA, none, none, none]) } →
      (∀ y ∈ [(0 : LotSlot), 1, 2, 3, 4], s.shipOf y = some 0 ∧ memberFailure s y = none) ∧ 0 + 4 < [0, 1, 2, 3, 4].length := by
  refine ⟨fun n h s e => ?_, by decide +kernel, ?_⟩
  · subst e; revert n; decide +kernel
  · rintro _ rfl; decide +kernel

/-- A member that fails each of conditions 2 to 5 first. -/
theorem test_meets_ShipChecksLeadToTheTicket_conditions :
    memberFailure (floorQ { lotC .complete with holds := [holdA .check] } none) 0 = some 2
    ∧ memberFailure { floorQ (lotC .complete) none with catalog := [{ entryA with state := .suspended }] } 0 = some 3
    ∧ memberFailure (floorA (some (lotC .complete)) (cellA .offline)) 0 = some 4
    ∧ memberFailure (setSummary 0 { summaryA with
        firstCounts := Counts.zero.set 1 10, finalCounts := Counts.zero.set 1 10, finalGood := 0 } (floorQ (lotC .complete) none)) 0 = some 5 := by
  decide +kernel

theorem test_meets_AcceptedShipmentsCloseTheirLots :
    State.reset.takes 1 ∧ (65535 : Nat) ≠ 0 ∧ (∀ v ∈ State.reset.tickets, v.number ≠ 65535)
    ∧ ∀ s, s = { floorQ (lotC .released) (some (shipA .released (some 1))) with tickets := [ticketA 1] } →
      s.takes 1 ∧ s.tickets.find? (fun v => v.number = 1) = some (ticketA 1) ∧ s.shipOfTicket 1 = some 0
      ∧ s.ship 0 = some (shipA .released (some 1)) ∧ s.lot 0 = some (lotC .released)
      ∧ ∀ y ∈ (shipA .released (some 1)).members, s.shipOf y = some 0 := by
  refine ⟨by decide +kernel, by decide, by decide +kernel, ?_⟩
  rintro _ rfl; decide +kernel

/-- An eligible lot with the summary of its step, T = 10 at, above and below M; one with none; and an ineligible one. -/
theorem test_meets_AcceptedShipmentsCloseTheirLots_learn :
    (∀ m ∈ [1, 10, 11], ∀ s, s = { floorQ (lotC .released) none with
        products := State.reset.products.set 0 (some { productA with steps := [{ stepA with limits := { stepA.limits with minSample := m } }] }) } →
      (s.product 0).isSome ∧ (lotC .released).baselineEligible ∧ (lotC .released).product = 0 ∧ s.summary 0 1 = some summaryA
      ∧ summaryA.firstT = 10 ∧ s.summary 0 2 = none ∧ (stepA.limits.entries.map (·.bin)).Nodup
      ∧ ∀ e ∈ stepA.limits.entries, 2 ≤ e.bin ∧ e.bin ≤ 16)
    ∧ ({ lotC .released with baselineEligible := false }).baselineEligible = false := by
  refine ⟨fun m h s e => ?_, rfl⟩
  subst e; revert m; decide +kernel

/-! ### Hypotheses met: whole-machine statements -/

theorem test_meets_UnitsAreConserved :
    (portionA (.atCell 0) 10 0).closes ∧ (portionA (.atCell 0) 10 0).h = 0 ∧ (portionA (.atCell 0) 2 5).closes
    ∧ 5 ≤ (portionA (.atCell 0) 2 5).h ∧ (portionA (.atCell 0) 2 5).h ≤ 9 := by
  unfold Portion.closes; decide

/-- A cell that soaks with the lot's portion, its START to come. -/
theorem test_meets_UnitsAreConserved_step : ∀ s, s = floorA (workA 10 0) { cellW .soaking false with dwellTimer := some 0 } →
    s.unitsClose ∧ ∃ t, step { s with pending := [.dwellExpiry 0] } = .next t := by
  rintro s rfl
  have units : ∀ x, ((floorA (workA 10 0) { cellW .soaking false with dwellTimer := some 0 }).lot x).all (fun l =>
      decide ((l.portions.map (·.number)).Nodup) && l.portions.all fun p => p.q = p.t + p.r + p.l + p.h) = true := by decide +kernel
  refine ⟨fun x l h => ?_, _, rfl⟩
  have := units x
  rw [h] at this
  simpa [Portion.closes] using this

theorem test_meets_WholeFramesAreProvedAndDamagedOnesFail :
    (List.replicate 300 (0 : Byte)).length ≤ 300 ∧ (List.replicate 1200 (0 : Byte)).length ≤ 1200
    ∧ validText 4 nameA ∧ (255 < 256 ∧ 16777215 < 16777216 ∧ (List.replicate 256 (0 : Byte)).length ≤ 256)
    ∧ (cellFrame 0x43 [1]).tail[2]? ≠ some 0 ∧ 2 < [(1 : Byte)].length + 5 ∧ (hostFrame 0x30 1 [1]).tail[7]? ≠ some 0 :=
  ⟨(List.length_replicate).le, (List.length_replicate).le, by decide +kernel, ⟨by decide, by decide, (List.length_replicate).le⟩,
    by decide +kernel, by decide, by decide +kernel⟩

theorem test_meets_HostQueuesStayBounded :
    State.reset.host.bounded ∧ (∃ t, step { State.reset with pending := [.identify 1] } = .next t)
    ∧ (queued 8 8).host.bounded := by
  unfold HostLink.bounded
  exact ⟨by decide +kernel, ⟨_, rfl⟩, by decide +kernel⟩

theorem test_meets_RecordsStaySound :
    State.reset.ticketsSound ∧ State.reset.catalogSound ∧ State.reset.countersInRange ∧ floorD.catalogSound
    ∧ ∃ t, step { floorD with pending := [.floorTimeTick] } = .next t := by
  unfold State.ticketsSound State.catalogSound State.countersInRange
  exact ⟨by decide +kernel, by decide +kernel, by decide +kernel, by decide +kernel, _, rfl⟩

/-- A floor with a summary under its step index takes a step. -/
theorem test_meets_RecordsStaySound_summaries : ∀ l s, s = { floorQ l none with pending := [.floorTimeTick] } →
    s.summariesPlaced ∧ s.summaries.get 0 = #v[some summaryA, none, none, none] ∧ ∃ t, step s = .next t := by
  rintro l _ rfl
  exact ⟨fun x k u h => test_meets_CompletedPassesMakeTheSummary_placed l x k u h, rfl, _, rfl⟩

theorem test_meets_PortQueuesStayBounded :
    State.reset.portsBounded ∧ (floorI true (List.replicate 16 (recordA 0 1))).portsBounded
    ∧ ∃ t, step { floorI true (List.replicate 16 (recordA 0 1)) with pending := [.intakeRecordTaken 0] } = .next t := by
  unfold State.portsBounded Port.bounded
  exact ⟨by decide +kernel, by decide +kernel, _, rfl⟩

end Sys2Proof.Tests
end

section
/-! SUPPORT. What the shared operations of the Cell Manager leave, said once: requests to a cell and frames of a station as they reach their
owner, pauses, resumptions and the setup check as record updates, and the frames of a pause and of a grant of buffers. -/

namespace Sys2Proof.CellProofs

open Sys2Proof Sys2Proof.Machine

/-! ### Requests and station frames as they reach their owner -/

@[simp] theorem cellOf_val (c : CellId) : cellOf c.val = some c := by
  unfold cellOf
  rw [dif_pos c.isLt]

/-- A request that names a configured cell reaches its owner (R43). -/
theorem onCell_configured {act : CellId → Owner} {c : CellId} {s : State} (h : (s.cell c).configured) :
    onCell c.val act s = act c s := by
  simp [onCell, h]

theorem onCell_proved {act : CellId → Owner} {c : CellId} {s : State} (h : (s.cell c).configured) :
    onCell c.val act s.proved = act c s.proved := onCell_configured (s := s.proved) h

@[simp] theorem heard_cell (s : State) (c d : CellId) : (s.heard c).cell d = s.cell d := rfl
@[simp] theorem heard_load (s : State) (c d : CellId) : (s.heard c).load d = s.load d := rfl
@[simp] theorem heard_lot (s : State) (c : CellId) (x : LotSlot) : (s.heard c).lot x = s.lot x := rfl
@[simp] theorem heard_waitList (s : State) (c : CellId) : (s.heard c).waitList = s.waitList := rfl
@[simp] theorem heard_waiting (s : State) (c : CellId) : (s.heard c).waiting = s.waiting := rfl
@[simp] theorem heard_lots (s : State) (c : CellId) : (s.heard c).lots = s.lots := rfl
@[simp] theorem heard_catalog (s : State) (c : CellId) : (s.heard c).catalog = s.catalog := rfl
@[simp] theorem heard_tickets (s : State) (c : CellId) : (s.heard c).tickets = s.tickets := rfl
theorem heard_port (s : State) (c : CellId) :
    (s.heard c).port c = { s.port c with rx := Receiver.between, silence := some 6 } := modPort_port_self s c _

/-- A proved frame on an UP link restarts the silence timer and acts (R108, R113). -/
theorem stationFrame_up {c : CellId} {act : State → State} {s : State} (h : (s.cell c).linkUp) :
    stationFrame c act s = settleHost (act (s.heard c)) := by
  unfold stationFrame restartSilence proveFrame State.heard
  rw [if_pos h, modPort_modPort]

/-- A proved frame on a DOWN link is discarded (R109). -/
theorem stationFrame_down {c : CellId} {act : State → State} {s : State} (h : (s.cell c).linkUp = false) :
    stationFrame c act s = settleHost (modPort c (fun p => { p with rx := Receiver.between }) s) := by
  simp [stationFrame, h, proveFrame]

/-! ### Record updates in one form -/

/-- A change of the state of a cell whose record has just been written (R44). -/
theorem setCellState_setCell {s : State} {c : CellId} {x : Cell} {st : CellState} (h : x.state ≠ st) :
    setCellState c st (s.setCell c x) = raise (.cellState c x.state st x.pause x.fault) (s.setCell c { x with state := st }) := by
  rw [setCellState_ne (by simpa using h)]
  simp

theorem setCell_modCell (s : State) (c : CellId) (f : Cell → Cell) (x : Cell) : (modCell c f s).setCell c x = s.setCell c x := by
  rw [modCell_eq, setCell_setCell]

theorem modCell_setCell (s : State) (c : CellId) (f : Cell → Cell) (x : Cell) : modCell c f (s.setCell c x) = s.setCell c (f x) := by
  rw [modCell_eq, setCell_setCell, setCell_cell_self]

/-- A place of a vector written with what it holds. -/
theorem set_get_self {α : Type} {n : Nat} (v : Vector α n) (i : Fin n) : v.set i.val (v.get i) i.isLt = v := by
  rw [Vector.get_eq_getElem]
  exact Vector.set_getElem_self _

theorem setCell_self (s : State) (c : CellId) : s.setCell c (s.cell c) = s := by
  unfold State.setCell State.cell
  rw [set_get_self]

theorem modPort_self {s : State} {c : CellId} {f : Port → Port} (h : f (s.port c) = s.port c) : modPort c f s = s := by
  unfold modPort
  rw [h]
  unfold State.port
  rw [set_get_self]

theorem modPort_congr {s : State} {c : CellId} {f g : Port → Port} (h : f (s.port c) = g (s.port c)) : modPort c f s = modPort c g s := by
  unfold modPort
  rw [h]

/-- The work in a slot depends on the lots, the products and the cell's current slot alone. -/
theorem currentWork_congr {s t : State} {c : CellId} (hc : (t.cell c).current = (s.cell c).current) (hl : t.lots = s.lots)
    (hp : t.products = s.products) : t.currentWork c = s.currentWork c := by
  unfold State.currentWork State.work State.stepOf State.lot State.product
  rw [hc, hl, hp]

/-- The work in a slot, from the records it names. -/
theorem currentWork_of {s : State} {c : CellId} {ref : PortionRef} {l : Lot} {p : Portion} {st : StepRec}
    (hc : (s.cell c).current = some ref) (hl : s.lot ref.lot = some l) (hp : l.portion ref.portion = some p)
    (hst : s.stepOf l = some st) : s.currentWork c = some (ref, l, p, st) := by
  simp [State.currentWork, State.work, hc, hl, hp, hst]

/-- The portion, the lot and the step that the work in a slot names. -/
theorem currentWork_some {s : State} {c : CellId} {ref : PortionRef} {l : Lot} {p : Portion} {st : StepRec}
    (h : s.currentWork c = some (ref, l, p, st)) :
    (s.cell c).current = some ref ∧ s.lot ref.lot = some l ∧ l.portion ref.portion = some p ∧ s.stepOf l = some st := by
  unfold State.currentWork at h
  split at h
  · cases h
  · next ref' hc =>
    unfold State.work at h
    split at h
    · cases h
    · next l' hl =>
      split at h
      · next p' st' hp hst =>
        simp only [Option.map_some, Option.some.injEq, Prod.mk.injEq] at h
        obtain ⟨rfl, rfl, rfl, rfl⟩ := h
        exact ⟨hc, hl, hp, hst⟩
      · cases h

/-- A frame handed to a port touches the ports and the reports (R110). -/
theorem sendFrame_rest (c : CellId) (f : PartFrame) (s : State) :
    sendFrame c f s = { s with ports := (sendFrame c f s).ports, host := (sendFrame c f s).host } := by
  unfold sendFrame
  split
  · split
    · rfl
    · split
      · rfl
      · rw [raise_eq]
  · rfl

@[simp] theorem sendFrame_lots (c : CellId) (f : PartFrame) (s : State) : (sendFrame c f s).lots = s.lots := by rw [sendFrame_rest]
@[simp] theorem sendFrame_loads (c : CellId) (f : PartFrame) (s : State) : (sendFrame c f s).loads = s.loads := by rw [sendFrame_rest]
@[simp] theorem sendFrame_products (c : CellId) (f : PartFrame) (s : State) : (sendFrame c f s).products = s.products := by
  rw [sendFrame_rest]
@[simp] theorem sendFrame_catalog (c : CellId) (f : PartFrame) (s : State) : (sendFrame c f s).catalog = s.catalog := by
  rw [sendFrame_rest]

end Sys2Proof.CellProofs
end

section
namespace Sys2Proof.CellProofs

open Sys2Proof Sys2Proof.Machine

/-! ### A pause reason added (R53) -/

/-- The first pause reason of a RUNNING or SOAKING cell stops it (R53). -/
def stops (x : Cell) : Bool := x.pause.isEmpty && (x.state == .running || x.state == .soaking)

/-- A cell's record once a pause reason has been added: stopped, a SOAKING one without its two timers (R53). -/
def withPause (r : PauseReason) (x : Cell) : Cell :=
  { x with
    pause := x.pause.add r
    state := if stops x then .paused else x.state
    soakTimer := if stops x && x.state == .soaking then none else x.soakTimer
    dwellTimer := if stops x && x.state == .soaking then none else x.dwellTimer }

theorem withPause_stays {r : PauseReason} {x : Cell} (h : stops x = false) : withPause r x = { x with pause := x.pause.add r } := by
  simp [withPause, h]

/-- A cell after a pause reason, before its waiting mark is looked at: PAUSE and the report of the new state where it stops (R53). -/
def pausedCell (c : CellId) (r : PauseReason) (s : State) : State :=
  if stops (s.cell c) then
    raise (.cellState c (s.cell c).state .paused (withPause r (s.cell c)).pause (withPause r (s.cell c)).fault)
      ((sendFrame c .pause s).setCell c (withPause r (s.cell c)))
  else s.setCell c (withPause r (s.cell c))

theorem pausedCell_cell (c : CellId) (r : PauseReason) (s : State) : (pausedCell c r s).cell c = withPause r (s.cell c) := by
  unfold pausedCell; split <;> simp

/-- A pause reason is added: the record, with PAUSE and the report of the new state where the cell stops, and the waiting mark that the
record gives (R48, R53). -/
theorem addPause_eq (c : CellId) (r : PauseReason) (s : State) :
    addPause c r s = setWaiting c (withPause r (s.cell c)).waits (pausedCell c r s) := by
  have mark : ∀ t, t = pausedCell c r s →
      updateWaiting id c t = setWaiting c (withPause r (s.cell c)).waits (pausedCell c r s) := by
    rintro _ rfl
    rw [updateWaiting_id, pausedCell_cell]
  unfold addPause
  refine mark _ ?_
  have frame : sendFrame c .pause (s.setCell c { s.cell c with pause := (s.cell c).pause.add r })
      = (sendFrame c .pause s).setCell c { s.cell c with pause := (s.cell c).pause.add r } := sendFrame_setCell _ _ _ _ _ rfl
  unfold pausedCell
  rw [modCell_eq]
  by_cases he : (s.cell c).pause.isEmpty = true
  case neg =>
    have hs : stops (s.cell c) = false := by simp [stops, he]
    rw [if_neg he, hs, withPause_stays hs]
    rfl
  case pos =>
    rw [if_pos he, frame]
    split
    · next hst =>
      have hs : stops (s.cell c) = true := by simp [stops, he, hst]
      rw [setCellState_setCell (by simp [hst]), hs]
      simp [withPause, hs, hst]
    · next hst =>
      have hs : stops (s.cell c) = true := by simp [stops, he, hst]
      rw [modCell_setCell, setCellState_setCell (by simp [hst]), hs]
      simp [withPause, hs, hst]
    all_goals
      next hst =>
      have hs : stops (s.cell c) = false := by simp [stops, hst]
      rw [hs, withPause_stays hs]
      rfl

theorem proved_pausedCell (c : CellId) (r : PauseReason) (s : State) : pausedCell c r s.proved = (pausedCell c r s).proved := by
  unfold pausedCell
  simp only [proved_cell, proved_sendFrame, proved_setCell, proved_raise]
  split <;> rfl

theorem proved_addPause (c : CellId) (r : PauseReason) (s : State) : addPause c r s.proved = (addPause c r s).proved := by
  rw [addPause_eq, addPause_eq, proved_pausedCell, proved_setWaiting, proved_cell]

end Sys2Proof.CellProofs
end

section
namespace Sys2Proof.CellProofs

open Sys2Proof Sys2Proof.Machine

/-- A JAM at the port, its two cases (R112, R118). -/
theorem jamPort_eq (p : Port) : jamPort p = if p.queue = [] then { p with arrival := 0, group := [], groupCount := 0 }
    else { p with arrival := 0, queue := markTail .jamFollows p.queue } := by
  unfold jamPort
  by_cases h : p.queue = []
  · simp [h, Port.dropGroup]
  · simp [h]

/-- Settles O29: a pause reason added is `addPause_eq` for both commands, behind `jamPort` where the JAM comes from the station. -/
theorem pauseReasonsStopTheCell : Obligations.PauseReasonsStopTheCell := by
  unfold Obligations.PauseReasonsStopTheCell
  intro s c stop hstop
  have hs : stop = stops (s.cell c) := hstop
  subst hs
  refine ⟨fun tag x ht hc hx => ?_, fun hd => ?_, fun x u hl hx hu => ?_⟩
  · have ex : x = withPause .operator (s.cell c) := hx
    subst ex
    refine congrArg Host.Outcome.next (takeRequest_proved ht ?_)
    rw [onCell_proved hc, proved_addPause, addPause_eq]
    simp only [pauseAnswer, accept, proved_cell, setWaiting_cell, pausedCell_cell]
    rfl
  · exact congrArg Host.Outcome.next (stationFrame_down hd)
  · have ex : x = withPause .jam (s.cell c) := hx
    have eu : modPort c jamPort (s.heard c) = u := by rw [hu, funext jamPort_eq]
    have ec : u.cell c = s.cell c := by rw [← eu, modPort_cell, heard_cell]
    refine congrArg Host.Outcome.next ((stationFrame_up hl).trans ?_)
    rw [eu, addPause_eq, pausedCell, ec, ex]

end Sys2Proof.CellProofs
end

section
namespace Sys2Proof.CellProofs

open Sys2Proof Sys2Proof.Machine

/-! ### MAINTENANCE-DUE set (R65, R66) -/

/-- The record with MAINTENANCE-DUE set, and its report where it becomes yes; no portion waits in the pending slot (R66). -/
def dueSet (c : CellId) (due : Bool) (s : State) : State :=
  if due && !(s.cell c).maintenanceDue then
    raise (.maintenance c (s.cell c).lifetime (s.cell c).contactorLimit) (s.setCell c { s.cell c with maintenanceDue := due })
  else s.setCell c { s.cell c with maintenanceDue := due }

@[simp] theorem dueSet_cell (c : CellId) (due : Bool) (s : State) :
    (dueSet c due s).cell c = { s.cell c with maintenanceDue := due } := by
  unfold dueSet; split <;> simp

@[simp] theorem dueSet_waitList (c : CellId) (due : Bool) (s : State) : (dueSet c due s).waitList = s.waitList := by
  unfold dueSet; split <;> simp

/-- MAINTENANCE-DUE of a cell with an empty pending slot (R65, R66). -/
theorem setDue_no_pending {rnd : Round} {c : CellId} {due : Bool} {s : State} (h : (s.cell c).pendingSlot = none) :
    setDue rnd c due s = updateWaiting rnd c (dueSet c due s) := by
  unfold setDue dueSet
  dsimp only
  rw [modCell_eq, returnPending_none (by simpa using h)]

theorem proved_dueSet (c : CellId) (due : Bool) (s : State) : dueSet c due s.proved = (dueSet c due s).proved := by
  unfold dueSet
  simp only [proved_cell, proved_setCell, proved_raise]
  split <;> rfl

/-- The mark of a cell whose record has just been written passes the report before it. -/
theorem setWaiting_ite_raise (c : CellId) (b : Bool) (p : Bool) (r : Report) (s : State) :
    setWaiting c b (if p then raise r s else s) = if p then raise r (setWaiting c b s) else setWaiting c b s := by
  split
  · rw [raise_setWaiting]
  · rfl

theorem proved_ite (p : Bool) (a b : State) : (if p then a.proved else b.proved) = (if p then a else b).proved := by
  split <;> rfl

end Sys2Proof.CellProofs
end

section
namespace Sys2Proof.CellProofs

open Sys2Proof Sys2Proof.Machine

/-! ### CELL-CONFIGURE (R66, R67) -/

theorem contactorTaken_eq (n : Nat) : contactorTaken n = if n = 0 then 0 else max 1000 (min 4000000000 n) := by
  unfold contactorTaken clamp
  split
  · rfl
  · split <;> (try split) <;> omega

theorem clamp_interval (n : Nat) : clamp 0 255 n = min 255 n := by
  unfold clamp; split <;> (try split) <;> omega

/-- A name is taken when another configured cell expects it (R67, item 3). -/
theorem nameTaken_iff (s : State) (c : CellId) (name : Text) :
    nameTaken s c name = true ↔ ∃ d, d ≠ c ∧ (s.cell d).configured ∧ (s.cell d).stationName = some name := by
  simp [nameTaken, and_assoc]

/-- The cell's record, its port and its run group count as CELL-CONFIGURE leaves them, before MAINTENANCE-DUE (R67, R121, R126). -/
def configuredState (c : CellId) (name : Text) (speed limit lifetime interval : Nat) (s : State) : State :=
  setRunGroups c 0 (modPort c Port.configure (s.setCell c (Cell.configure name speed limit lifetime interval (s.cell c))))

/-- CELL-CONFIGURE comes to its name check with every field in its range on an OFFLINE or DOWN cell with empty slots, and what it leaves is
neither IDLE nor RUNNING, so that it waits for no work (R48, R67). -/
theorem cellConfigure_checked {c : CellId} {name : Text} {speed limit lifetime interval : Nat} {s : State} (hn : validName name)
    (hs : speed = 115200 ∨ speed = 460800) (hl : lifetime ≤ 4294967295) (hst : (s.cell c).state = .offline ∨ (s.cell c).state = .down)
    (hc : (s.cell c).current = none) (hp : (s.cell c).pendingSlot = none) {v : State}
    (hv : v = configuredState c name speed (contactorTaken limit) lifetime (clamp 0 255 interval) s) :
    cellConfigure c.val name speed limit lifetime interval s
      = if nameTaken s c name then refuse .duplicate s
        else accept (.configured name speed (contactorTaken limit) lifetime (clamp 0 255 interval))
          (setWaiting c false (dueSet c (v.cell c).due v)) := by
  have hvc : v.cell c = Cell.configure name speed (contactorTaken limit) lifetime (clamp 0 255 interval) (s.cell c) := by
    simp [hv, configuredState]
  have quiet : setDue offerRound c (v.cell c).due v = setWaiting c false (dueSet c (v.cell c).due v) := by
    rw [setDue_no_pending (by rw [hvc]; exact hp), updateWaiting_not]
    rw [dueSet_cell, hvc]
    exact waits_of_state (by rcases hst with h | h <;> simp [Cell.configure, h]) (by rcases hst with h | h <;> simp [Cell.configure, h])
  rw [← quiet, hv]
  unfold cellConfigure
  simp only [cellOf_val]
  rw [if_neg (by rcases hs with rfl | rfl <;> simp [hn, hl]), if_neg (by rcases hst with h | h <;> simp [h, hc])]
  rfl

/-- MAINTENANCE-DUE set on the configured cell, said of the state before (R66, R67). -/
theorem configured_eq {s : State} {c : CellId} {name : Text} {speed lim lifetime int : Nat} {x : Cell} {u v : State}
    (hx : x = { Cell.configure name speed lim lifetime int (s.cell c) with maintenanceDue := decide (lim ≠ 0 ∧ lim ≤ lifetime) })
    (hu : u = { s with
      cells := s.cells.set c.val x c.isLt
      ports := s.ports.set c.val { Port.reset with tx := (s.port c).tx, productionArrived := (s.port c).productionArrived } c.isLt
      runGroups := s.runGroups.set c.val 0 c.isLt
      waiting := s.waiting.set c.val false c.isLt })
    (hv : v = configuredState c name speed lim lifetime int s) :
    setWaiting c false (dueSet c (v.cell c).due v)
      = if x.maintenanceDue && !(s.cell c).maintenanceDue then raise (.maintenance c lifetime lim) u else u := by
  have hc : v.cell c = Cell.configure name speed lim lifetime int (s.cell c) := by simp [hv, configuredState]
  have hd : (v.cell c).due = x.maintenanceDue := by simp [hc, hx, Cell.due, Cell.configure, Bool.decide_and]
  have hxc : { v.cell c with maintenanceDue := x.maintenanceDue } = x := by rw [hc, hx]
  have hw : setWaiting c false (v.setCell c x) = u := by
    have e : v.setCell c x = setRunGroups c 0 (modPort c Port.configure (s.setCell c x)) := by
      rw [hv, configuredState, modPort_setCell, setRunGroups_setCell, setCell_setCell]
      rfl
    rw [e, hu]
    rfl
  unfold dueSet
  rw [hd, hxc, setWaiting_ite_raise, hw, hc]
  rfl

/-- Settles O28: the checks a good request passes, the record it writes, and the station names in use. -/
theorem cellConfigureStoresTheValues : Obligations.CellConfigureStoresTheValues := by
  unfold Obligations.CellConfigureStoresTheValues
  intro tag s c name speed limit lifetime interval lim int x ht hn hs hl hst hc hp hlim hint hx
  rw [← contactorTaken_eq] at hlim
  rw [← clamp_interval] at hint
  have checked := cellConfigure_checked (s := s.proved) (limit := limit) (interval := interval) hn hs hl hst hc hp rfl
  rw [← withText_of_valid (own := fun name => cellConfigure c.val name speed limit lifetime interval) hn, ← hlim, ← hint] at checked
  refine ⟨fun free u hu => congrArg Host.Outcome.next (takeRequest_proved ht ?_), fun d hd hcd hnd =>
    congrArg Host.Outcome.next (takeRequest_same ht ?_)⟩
  · have hf : nameTaken s.proved c name = false := Bool.eq_false_iff.mpr fun h => by
      obtain ⟨d, hd, hcd, hnd⟩ := (nameTaken_iff s c name).mp h
      exact free d hd hcd hnd
    rw [checked, hf, ← configured_eq hx hu rfl, ← proved_setWaiting, ← proved_dueSet]
    rfl
  · have taken : nameTaken s.proved c name = true := (nameTaken_iff s c name).mpr ⟨d, hd, hcd, hnd⟩
    rw [checked, taken]
    rfl

end Sys2Proof.CellProofs
end

section
namespace Sys2Proof.CellProofs

open Sys2Proof Sys2Proof.Machine

/-! ### CELL-SITES-ON, CELL-CONTACTOR and CELL-ERR-RESET (R64, R66, R116) -/

theorem has_ofNat (sites : Nat) (k : Fin 8) : SiteSet.has (BitVec.ofNat 8 sites) k.val = sites.testBit k.val := by
  simp [SiteSet.has, BitVec.getLsbD_ofNat, -BitVec.getLsbD_eq_getElem, k.isLt]

/-- A site set taken out of the switched-off set (R64). -/
theorem siteOff_without (off : SiteSet) (sites : Nat) (k : Fin 8) :
    SiteSet.has (off &&& ~~~BitVec.ofNat 8 sites) k.val = (SiteSet.has off k.val && !sites.testBit k.val) := by
  rw [← has_ofNat]
  simp [SiteSet.has]

/-- With no lot waiting the round that a change of the enabled sites asks for does nothing (R64, R79). -/
theorem cellSitesOn_idle {set : SiteSet} {c : CellId} {s : State} (hb : (s.cell c).busy = false) (hw : s.waitList = []) :
    cellSitesOn set c s = accept (.sites (Cell.sitesOn set (s.cell c)).enabled) (modCell c (Cell.sitesOn set) s) := by
  have quiet : offerRound (modCell c (Cell.sitesOn set) s) = modCell c (Cell.sitesOn set) s := offerRound_empty hw
  unfold cellSitesOn
  simp only [hb, quiet, ite_self, modCell_cell_self]
  rfl

/-- CELL-CONTACTOR of a cell with an empty pending slot, while no lot waits (R66). -/
theorem cellContactor_empty {limit : Option Nat} {reset : Bool} {c : CellId} {s : State} {x : Cell}
    (hw : s.waitList = []) (hp : (s.cell c).pendingSlot = none)
    (hx : x = { Cell.contactor limit reset (s.cell c) with maintenanceDue := (Cell.contactor limit reset (s.cell c)).due }) :
    cellContactor limit reset c s = accept (.contactor x.contactorLimit x.lifetime x.maintenanceDue)
      (setWaiting c x.waits (if x.maintenanceDue && !(s.cell c).maintenanceDue then
        raise (.maintenance c x.lifetime x.contactorLimit) (s.setCell c x) else s.setCell c x)) := by
  have hd : setDue offerRound c (Cell.contactor limit reset (s.cell c)).due (modCell c (Cell.contactor limit reset) s)
      = setWaiting c x.waits (dueSet c x.maintenanceDue (modCell c (Cell.contactor limit reset) s)) := by
    rw [setDue_no_pending (by simpa [Cell.contactor] using hp), updateWaiting_empty (by simpa using hw), dueSet_cell, hx]
    simp
  have hs : dueSet c x.maintenanceDue (modCell c (Cell.contactor limit reset) s)
      = if x.maintenanceDue && !(s.cell c).maintenanceDue then
          raise (.maintenance c x.lifetime x.contactorLimit) (s.setCell c x) else s.setCell c x := by
    unfold dueSet
    rw [modCell_cell_self, setCell_modCell, hx]
    rfl
  have hxc : (setWaiting c x.waits (dueSet c x.maintenanceDue (modCell c (Cell.contactor limit reset) s))).cell c = x := by
    rw [setWaiting_cell, dueSet_cell, modCell_cell_self, hx]
  unfold cellContactor
  dsimp only
  rw [modCell_cell_self, hd, hxc, hs]

/-- Settles O33: CELL-SITES-ON by whether a run is under way, CELL-CONTACTOR by `dueSet`, and the flags. -/
theorem sitesContactorAndFlagsAreSet : Obligations.SitesContactorAndFlagsAreSet := by
  unfold Obligations.SitesContactorAndFlagsAreSet
  intro tag s c ht hc hw
  refine ⟨fun sites busy hs hb => ⟨fun hbusy => ?_, fun hfree => ?_⟩, fun sites k hk h7 => ?_, fun limit reset x u hp hx hu => ?_, ?_⟩
  · have hb' : (s.cell c).busy = true := hb.symm.trans hbusy
    refine congrArg Host.Outcome.next (takeRequest_same ht ?_)
    simp [readSites, Nat.not_lt.mpr hs, onCell_proved hc, cellSitesOn, hb', refuse]
  · have hb' : (s.proved.cell c).busy = false := hb.symm.trans hfree
    refine ⟨_, _, congrArg Host.Outcome.next (takeRequest_proved ht (u := modCell c (Cell.sitesOn (BitVec.ofNat 8 sites)) s) ?_),
      fun k => ⟨siteOff_without _ _ k, ?_⟩⟩
    · simp only [readSites, if_neg (Nat.not_lt.mpr hs), onCell_proved hc, cellSitesOn_idle hb' hw]
      rfl
    · simp [Vector.get_eq_getElem, has_ofNat]
  · have h255 : 255 < sites := by
      have := Nat.ge_two_pow_of_testBit hk
      have : 2 ^ 8 ≤ 2 ^ k := Nat.pow_le_pow_right (by omega) h7
      omega
    refine congrArg Host.Outcome.next (takeRequest_same ht ?_)
    simp [readSites, h255, refuse]
  · have hx' : x = { Cell.contactor limit reset (s.cell c) with maintenanceDue := (Cell.contactor limit reset (s.cell c)).due } := by
      rw [hx]
      rcases limit with _ | _ | n
      · rfl
      · rfl
      · simp [Cell.contactor, contactorTaken_eq, Cell.due]
    refine congrArg Host.Outcome.next (takeRequest_proved ht ?_)
    rw [onCell_proved hc, cellContactor_empty (s := s.proved) hw hp hx', hu]
    simp only [proved_cell, setWaiting_ite_raise, proved_setCell, proved_setWaiting, proved_raise, proved_ite]
    rfl
  · refine congrArg Host.Outcome.next (takeRequest_proved ht ?_)
    rw [onCell_proved hc]
    rfl

end Sys2Proof.CellProofs
end

section
namespace Sys2Proof.CellProofs

open Sys2Proof Sys2Proof.Machine

/-! ### HELLO (R45) -/

/-- The catalog and the tickets are as they were: no operation of the Cell Manager touches them. -/
theorem kept_records (s : State) : Kept fun t => t.catalog = s.catalog ∧ t.tickets = s.tickets where
  cells _ _ h := h
  loads _ _ h := h
  lots _ _ h := h
  tallies _ _ h := h
  ships _ _ h := h
  checkMarks _ _ h := h
  summary _ _ _ h := by simpa using h
  noSummaries _ _ h := h
  runGroups _ _ h := h
  waiting _ _ h := h
  bufferWaiting _ _ h := h
  waitList _ _ h := h
  pointer _ _ h := h
  buffers _ _ h := h
  grantPointer _ _ h := h
  port _ _ _ _ h := h
  product _ _ _ _ h := h
  raise _ _ h := by simpa using h

theorem readTrailingText_eq_value (max : Nat) (t : Text) : readTrailingText max t = .value t ↔ t.length ≤ max ∧ t.all textChar := by
  unfold readTrailingText
  split
  · next h => simp at h ⊢; grind
  · next h => simp at h ⊢; grind

theorem readTrailingKit (t : Text) : readTrailingText 8 t = .value t ↔ t = [] ∨ validKit t := by
  rw [readTrailingText_eq_value]
  cases t with
  | nil => simp
  | cons b t => simp [validKit, validText]

theorem readClassSet_eq_value (b : ClassSet) : readClassSet b = .value b ↔ b.toNat ≤ 7 := by
  unfold readClassSet
  split
  · next h => simp; omega
  · next h => simp; omega

/-- What is read from a fixed text field is its characters (R186). -/
theorem readFixedText_value {f t : Text} (h : readFixedText f = .value t) : t = fieldChars f := by
  unfold readFixedText at h
  split at h
  · cases h
  · split at h <;> cases h
    rfl

theorem takeText_isSome (max : Nat) (f : Text) :
    (takeText max f).isSome ↔ readFixedText f = .value (fieldChars f) ∧ (fieldChars f).length ≤ max := by
  unfold takeText
  split
  · next t h =>
    cases readFixedText_value h
    rw [h]
    split <;> simp_all
  · next h => simp [h]
  · next h => simp [h]

/-- A HELLO is no malformed one when each field has its form and range (R108, R186). -/
theorem malformedHello_eq_false (name : Text) (sites : Nat) (classes : ClassSet) (kit : Text) :
    malformedHello name sites classes kit = false ↔
      readFixedText name = .value (fieldChars name) ∧ (fieldChars name).length ≤ 16
      ∧ (sites = 1 ∨ sites = 2 ∨ sites = 4 ∨ sites = 8) ∧ classes ≠ 0 ∧ classes.toNat ≤ 7 ∧ (kit = [] ∨ validKit kit) := by
  rw [← readClassSet_eq_value, ← readTrailingKit, ← and_assoc, ← takeText_isSome]
  simp only [malformedHello, validSites, Bool.or_eq_false_iff, Option.isNone_eq_false_iff, Bool.not_eq_false', Bool.or_eq_true,
    beq_iff_eq, decide_eq_false_iff_not, ne_eq, not_not, and_assoc, or_assoc]

/-- PURGE on a cell that is not PURGING (R45). -/
theorem startPurge_eq {c : CellId} {s : State} (h : (s.cell c).state ≠ .purging) :
    startPurge c s = raise (.cellState c (s.cell c).state .purging (s.cell c).pause (s.cell c).fault)
      ((sendFrame c .purge s).setCell c { s.cell c with state := .purging, purgeTimer := some 600 }) := by
  unfold startPurge
  rw [modCell_eq, setCellState_setCell (by simpa using h)]
  simp

/-- A purge leaves the cell PURGING with its timer at 600 s, whatever its state was, and else as it was (R45). -/
theorem startPurge_cell (c : CellId) (s : State) :
    (startPurge c s).cell c = { s.cell c with state := .purging, purgeTimer := some 600 } := by
  by_cases h : (s.cell c).state = .purging
  · unfold startPurge
    rw [setCellState_same (by simpa using h)]
    simp [← h]
  · rw [startPurge_eq h]
    simp

/-- A frame handed to a port changes the frame under way and the transmit list of a port alone (R110). -/
theorem sendFrame_port (c : CellId) (f : PartFrame) (s : State) (d : CellId) :
    ∃ tx l, (sendFrame c f s).port d = { s.port d with tx := tx, txList := l } := by
  have put (g : Port → Port) (hg : ∀ p, ∃ tx l, g p = { p with tx := tx, txList := l }) :
      ∃ tx l, (modPort c g s).port d = { s.port d with tx := tx, txList := l } := by
    rw [modPort_port]
    split
    · next h => subst h; exact hg _
    · exact ⟨_, _, rfl⟩
  unfold sendFrame
  split
  · split
    · exact put _ fun p => ⟨_, _, rfl⟩
    · split
      · exact put _ fun p => ⟨_, _, rfl⟩
      · exact ⟨_, _, by rw [raise_port]⟩
  · exact ⟨_, _, rfl⟩

theorem sendFrame_silence (c : CellId) (f : PartFrame) (s : State) (d : CellId) :
    ((sendFrame c f s).port d).silence = (s.port d).silence := by
  obtain ⟨tx, l, h⟩ := sendFrame_port c f s d
  rw [h]

theorem startPurge_silence (c : CellId) (s : State) (d : CellId) : ((startPurge c s).port d).silence = (s.port d).silence := by
  unfold startPurge setCellState
  split <;> simp [sendFrame_silence]

/-- An accepted HELLO: the record, the silence timer and the purge (R45, R113). -/
theorem acceptHello_leaves (c : CellId) (sites : Nat) (classes : ClassSet) (kit : Text) (s : State) :
    (acceptHello c sites classes kit s).cell c
      = { Cell.hello sites classes kit (s.cell c) with state := .purging, purgeTimer := some 600 }
    ∧ ((acceptHello c sites classes kit s).port c).silence = some 6 := by
  unfold acceptHello restartSilence
  exact ⟨by rw [startPurge_cell, modPort_cell, modCell_cell_self], by rw [startPurge_silence, modPort_port_self]⟩

theorem keepAlive_proveFrame (c : CellId) (s : State) : keepAlive c (proveFrame c s)
    = modPort c (fun p => { p with rx := Receiver.between, silence := if (s.cell c).linkUp then some 6 else p.silence }) s := by
  unfold keepAlive proveFrame restartSilence
  by_cases h : (s.cell c).linkUp <;> simp [h]

/-- The silence timer set by a proved HELLO, whatever the link was (R113). -/
theorem restartSilence_keepAlive (c : CellId) (f : Cell → Cell) (s : State) :
    restartSilence c (modCell c f (keepAlive c (proveFrame c s))) = modCell c f (s.heard c) := by
  rw [keepAlive_proveFrame]
  unfold restartSilence State.heard
  rw [modCell_eq, modCell_eq, modPort_setCell, modPort_modPort]
  rfl

/-- A HELLO of the right station, by the state of its cell (R45). -/
theorem helloArrives_offline {rnd : Round} {c : CellId} {name : Text} {sites : Nat} {classes : ClassSet} {kit : Text} {s : State}
    (hc : (s.cell c).configured) (hn : (s.cell c).stationName = some name) (h : (s.cell c).state = .offline) :
    helloArrives rnd c name sites classes kit s = acceptHello c sites classes kit s := by
  simp [helloArrives, hc, hn, h]

theorem helloArrives_down {rnd : Round} {c : CellId} {name : Text} {sites : Nat} {classes : ClassSet} {kit : Text} {s : State}
    (hc : (s.cell c).configured) (hn : (s.cell c).stationName = some name) (h : (s.cell c).state = .down) :
    helloArrives rnd c name sites classes kit s = restartSilence c (modCell c (Cell.hello sites classes kit) s) := by
  simp [helloArrives, hc, hn, h]

theorem helloArrives_again {rnd : Round} {c : CellId} {name : Text} {sites : Nat} {classes : ClassSet} {kit : Text} {s : State}
    (hc : (s.cell c).configured) (hn : (s.cell c).stationName = some name) (ho : (s.cell c).state ≠ .offline)
    (hd : (s.cell c).state ≠ .down) :
    helloArrives rnd c name sites classes kit s = acceptHello c sites classes kit (linkLoss rnd c s) := by
  unfold helloArrives
  dsimp only
  rw [if_neg (by simp [hc, hn])]
  split
  · exact absurd ‹_› ho
  · exact absurd ‹_› hd
  all_goals rfl

/-- Settles O34, by the form of the HELLO, the station's name and the state of the cell. -/
theorem helloBringsTheLinkUp : Obligations.HelloBringsTheLinkUp := by
  unfold Obligations.HelloBringsTheLinkUp
  intro s u c name station sites classes kit takes good hstation hu htakes hgood
  subst hstation
  have hk : keepAlive c (proveFrame c s) = u := (keepAlive_proveFrame c s).trans hu.symm
  have ht : Cell.hello sites classes kit = takes := by
    rw [htakes]
    funext x
    simp [Cell.hello]
  have hc : u.cell c = s.cell c := by rw [hu, modPort_cell]
  have well : good → malformedHello name sites classes kit = false := fun g => (malformedHello_eq_false ..).mpr (hgood ▸ g)
  have arrives (g : good) : exec (.hello c name sites classes kit) s
      = .next (settleHost (helloArrives offerRound c (fieldChars name) sites classes kit u)) := by
    change execHello c name sites classes kit s = _
    unfold execHello
    rw [hk, well g]
    rfl
  refine ⟨fun bad => ?_, fun g other => ?_, fun g conf own => ⟨fun off => ?_, fun down => ?_, fun noff ndown => ?_⟩⟩
  · have : malformedHello name sites classes kit = true :=
      Bool.eq_true_of_not_eq_false fun h => bad (hgood ▸ (malformedHello_eq_false ..).mp h)
    change execHello c name sites classes kit s = _
    unfold execHello
    rw [hk, this]
    rfl
  · rw [arrives g]
    unfold helloArrives
    rw [hc, if_pos]
    rcases other with h | h
    · simp [h]
    · simpa using .inr h
  · rw [arrives g, helloArrives_offline (hc ▸ conf) (hc ▸ own) (hc ▸ off)]
    unfold acceptHello
    rw [← hk, restartSilence_keepAlive, ht, startPurge_eq (by simp [htakes, off])]
    simp [modCell_eq, htakes, off]
  · rw [arrives g, helloArrives_down (hc ▸ conf) (hc ▸ own) (hc ▸ down), ← hk, restartSilence_keepAlive, ht]
  · obtain ⟨hcell, hsilence⟩ := acceptHello_leaves c sites classes kit (linkLoss offerRound c u)
    have kept : (acceptHello c sites classes kit (linkLoss offerRound c u)).catalog = u.catalog
        ∧ (acceptHello c sites classes kit (linkLoss offerRound c u)).tickets = u.tickets :=
      (kept_records u).acceptHello ((kept_records u).linkLoss (kept_records u).offerRound ⟨rfl, rfl⟩)
    rw [arrives g, helloArrives_again (hc ▸ conf) (hc ▸ own) (hc ▸ noff) (hc ▸ ndown)]
    refine ⟨_, rfl, ?_⟩
    simp only [settleHost_cell, settleHost_port, settleHost_catalog, settleHost_tickets, hcell, hsilence, kept]
    simp [Cell.hello, hu]

end Sys2Proof.CellProofs
end

section
namespace Sys2Proof.CellProofs

open Sys2Proof Sys2Proof.Machine

/-! ### The setup check by its outcomes (R49) -/

/-- Entry to SOAKING from another state (R50). -/
theorem enterSoaking_eq {s : State} {c : CellId} {ref : PortionRef} {l : Lot} {p : Portion} {st : StepRec}
    (hw : s.currentWork c = some (ref, l, p, st)) (hs : (s.cell c).state ≠ .soaking) :
    enterSoaking c s = raise (.cellState c (s.cell c).state .soaking (s.cell c).pause (s.cell c).fault)
      ((sendFrame c (.soak st.tempClass) s).setCell c
        { s.cell c with state := .soaking, soakTimer := some st.soakTimeout, dwellTimer := none }) := by
  unfold enterSoaking
  rw [hw]
  dsimp only
  rw [modCell_eq, setCellState_setCell (by simpa using hs)]
  simp

/-- Another kit, or none: RESERVED with the CHANGEOVER report (R49, item 1). -/
theorem setupCheck_kit {rnd : Round} {s : State} {c : CellId} {ref : PortionRef} {l : Lot} {p : Portion} {st : StepRec}
    (hw : s.currentWork c = some (ref, l, p, st)) (hk : (s.cell c).kit ≠ some st.kit) :
    setupCheck rnd c s = raise (.changeover c l.id p.number st.kit (s.cell c).kit) (setCellState c .reserved s) := by
  unfold setupCheck
  rw [hw]
  dsimp only
  rw [if_neg hk]

theorem setupCheck_fits {rnd : Round} {s : State} {c : CellId} {ref : PortionRef} {l : Lot} {p : Portion} {st : StepRec}
    (hw : s.currentWork c = some (ref, l, p, st)) (hk : (s.cell c).kit = some st.kit) :
    setupCheck rnd c s = setupFromPause rnd c s := by
  unfold setupCheck
  rw [hw]
  dsimp only
  rw [if_pos hk]

/-- A pause reason: PAUSED (R49, item 2). -/
theorem setupFromPause_paused {rnd : Round} {s : State} {c : CellId} {w : PortionRef × Lot × Portion × StepRec}
    (hw : s.currentWork c = some w) (hp : (s.cell c).pause.isEmpty = false) :
    setupFromPause rnd c s = setCellState c .paused s := by
  unfold setupFromPause
  rw [hw]
  dsimp only
  rw [if_pos (by simp [hp])]

/-- The program is loaded: SOAKING (R49, item 3). -/
theorem setupFromPause_loaded {rnd : Round} {s : State} {c : CellId} {ref : PortionRef} {l : Lot} {p : Portion} {st : StepRec}
    (hw : s.currentWork c = some (ref, l, p, st)) (hp : (s.cell c).pause.isEmpty)
    (hg : (s.cell c).program = p.revision.map fun r => ⟨st.program, r⟩) :
    setupFromPause rnd c s = enterSoaking c s := by
  unfold setupFromPause
  rw [hw]
  dsimp only
  rw [if_neg (by simp [hp]), if_pos hg]

/-- The program is to load: LOADING, with the load's start or its refusal (R49, item 4; R88). -/
theorem setupFromPause_load {rnd : Round} {s : State} {c : CellId} {ref : PortionRef} {l : Lot} {p : Portion} {st : StepRec} {v : Nat}
    (hw : s.currentWork c = some (ref, l, p, st)) (hp : (s.cell c).pause.isEmpty) (hv : p.revision = some v)
    (hg : (s.cell c).program ≠ some ⟨st.program, v⟩) :
    setupFromPause rnd c s = if (startLoad c ⟨st.program, v⟩ (setCellState c .loading s)).2 then
        (startLoad c ⟨st.program, v⟩ (setCellState c .loading s)).1
      else loadFailed rnd c .suspended (startLoad c ⟨st.program, v⟩ (setCellState c .loading s)).1 := by
  unfold setupFromPause
  rw [hw]
  dsimp only
  rw [if_neg (by simp [hp]), hv, if_neg (by simpa using hg)]
  rfl

theorem modLoad_modLoad (c : CellId) (f g : Load → Load) (s : State) : modLoad c f (modLoad c g s) = modLoad c (fun d => f (g d)) s := by
  unfold modLoad State.load
  simp [Vector.set_set, Vector.get_eq_getElem]

theorem modLoad_congr {s : State} {c : CellId} {f g : Load → Load} (h : f (s.load c) = g (s.load c)) : modLoad c f s = modLoad c g s := by
  unfold modLoad
  rw [h]

/-! ### IMAGE-CHECK (R100) -/

/-- An IMAGE-CHECK that finds its load not VERIFYING is discarded (R100). -/
theorem checkImage_discarded {rnd : Round} {c : CellId} {v : BitVec 32} {s : State} (h : (s.load c).state ≠ .verifying) :
    checkImage rnd c v s = s := by
  unfold checkImage
  rw [if_neg h]

/-- Three equal values end the load DONE, with its report, and the Cell Manager takes the program (R100, R103). -/
theorem checkImage_good {rnd : Round} {c : CellId} {v : BitVec 32} {s : State} {d : Load} (h : (s.load c).state = .verifying)
    (hc : (s.load c).catalogCheck = some v) (hr : (s.load c).relayedCheck = some v)
    (hd : d = { s.load c with stationCheck := some v, checkTimer := false, state := .done }) :
    checkImage rnd c v s = loadGood rnd c (raise (loadDoneReport c d) (modLoad c (fun _ => d) s)) := by
  have good : compareChecks { s.load c with stationCheck := some v, checkTimer := false } v = none := by
    simp [compareChecks, hc, hr]
  have stored : modLoad c (fun d => { d with state := .done })
      (modLoad c (fun d => { d with stationCheck := some v, checkTimer := false }) s) = modLoad c (fun _ => d) s := by
    rw [modLoad_modLoad]
    exact modLoad_congr hd.symm
  unfold checkImage
  rw [if_pos h]
  dsimp only
  rw [modLoad_load_self, good]
  dsimp only
  rw [stored, modLoad_load_self]

/-- A good load of a LOADING cell: the program is loaded, the failures are forgotten and the setup check is made (R51). -/
theorem loadGood_eq {rnd : Round} {c : CellId} {s : State} {x : Cell} (h : (s.cell c).state = .loading)
    (hx : x = { s.cell c with program := (s.load c).program, loadFailures := 0 }) :
    loadGood rnd c s = setupCheck rnd c (s.setCell c x) := by
  unfold loadGood
  rw [if_pos h, modCell_eq, hx]

/-- Settles O45: the good check is `setupCheck` of the cell with its program, and each way out of it is one of the equations above. -/
theorem goodChecksLoadTheProgram : Obligations.GoodChecksLoadTheProgram := by
  unfold Obligations.GoodChecksLoadTheProgram
  intro s c v hl
  have checked : exec (.imageCheck c v) s = .next (settleHost (checkImage offerRound c v (s.heard c))) :=
    congrArg Host.Outcome.next (stationFrame_up hl)
  refine ⟨fun h => by rw [checked, checkImage_discarded (s := s.heard c) h], ?_⟩
  intro ref l p st r d x u hv hcat hrel hst hw hrev hprog hd hx hu
  have huc : u.cell c = s.cell c := by simp [hu]
  have hload : u.load c = d := by simp [hu]
  have hgood : checkImage offerRound c v (s.heard c) = setupCheck offerRound c (u.setCell c x) := by
    rw [checkImage_good (s := s.heard c) hv hcat hrel hd, ← hu, loadGood_eq (by rw [huc, hst])]
    rw [huc, hload, hx, hd, hprog]
  have hwork : (u.setCell c x).currentWork c = some (ref, l, p, st) := by
    rw [← hw]
    exact currentWork_congr (by simp [hx]) (by simp [hu]) (by simp [hu]; rfl)
  have hxs : x.state = .loading := by simp [hx, hst]
  have hfits (hk : (s.cell c).kit = some st.kit) :
      setupCheck offerRound c (u.setCell c x) = setupFromPause offerRound c (u.setCell c x) :=
    setupCheck_fits hwork (by simp [hx, hk])
  refine ⟨fun hk hp => ?_, fun hk hp => ?_, fun hk => ?_⟩
  · rw [checked, hgood, hfits hk, setupFromPause_loaded hwork (by simpa [hx] using hp) (by simp [hx, hrev]),
      enterSoaking_eq hwork (by simp [hxs]), sendFrame_setCell _ _ _ _ _ (by simp [hx, huc]), setCell_setCell]
    simp [hxs]
  · rw [checked, hgood, hfits hk, setupFromPause_paused hwork (by simpa [hx] using hp), setCellState_setCell (by simp [hxs]), hxs]
  · rw [checked, hgood, setupCheck_kit hwork (by simpa [hx] using hk), setCellState_setCell (by simp [hxs]), hxs]
    simp [hx]

end Sys2Proof.CellProofs
end

section
namespace Sys2Proof.CellProofs

open Sys2Proof Sys2Proof.Machine

/-! ### What grants of buffers touch (R91) -/

/-- Grants change the wants and the next want of the loads, the buffer pool with its pointer and waiting set, and the host's reports. -/
structure GrantFrame (s t : State) : Prop where
  rest : t = { s with
    loads := t.loads, bufferWaiting := t.bufferWaiting, grantPointer := t.grantPointer, buffers := t.buffers, host := t.host }
  load : ∀ d, t.load d = { s.load d with wants := (t.load d).wants, nextWant := (t.load d).nextWant }

namespace GrantFrame

variable {s t u : State} {c : CellId}

theorem refl (s : State) : GrantFrame s s := ⟨rfl, fun _ => rfl⟩

theorem trans (h : GrantFrame s t) (k : GrantFrame t u) : GrantFrame s u where
  rest := k.rest.trans (by rw [h.rest])
  load d := by rw [k.load, h.load]

theorem raise (h : GrantFrame s t) (r : Report) : GrantFrame s (raise r t) :=
  h.trans ⟨by rw [raise_eq], fun d => by rw [raise_load]⟩

theorem setBufferWaiting (h : GrantFrame s t) (c : CellId) (b : Bool) : GrantFrame s (setBufferWaiting c b t) :=
  h.trans ⟨rfl, fun _ => rfl⟩

theorem turnBuffer (h : GrantFrame s t) (is : Buffer → Bool) (b : Buffer) : GrantFrame s (turnBuffer is b t) := by
  refine h.trans ?_
  unfold Machine.turnBuffer
  split
  · exact ⟨rfl, fun _ => rfl⟩
  · exact refl t

theorem modLoad (h : GrantFrame s t) (c : CellId) {f : Load → Load}
    (hf : ∀ d, f d = { d with wants := (f d).wants, nextWant := (f d).nextWant }) : GrantFrame s (modLoad c f t) := by
  refine h.trans ⟨rfl, fun d => ?_⟩
  rw [modLoad_load]
  split
  · next e => subst e; exact hf _
  · rfl

theorem issueWant (h : GrantFrame s t) (c : CellId) : GrantFrame s (issueWant c t) := by
  unfold Machine.issueWant
  refine GrantFrame.modLoad (GrantFrame.raise (GrantFrame.modLoad h c ?_) _) c ?_ <;> exact fun _ => rfl

theorem grantBuffer (h : GrantFrame s t) (c : CellId) : GrantFrame s (grantBuffer c t) := by
  have h1 : GrantFrame s { reserveBuffer c (t.load c).nextWant t with grantPointer := c } :=
    (h.turnBuffer _ _).trans ⟨rfl, fun _ => rfl⟩
  unfold Machine.grantBuffer
  dsimp only
  split
  · exact h1.issueWant c
  · exact (h1.issueWant c).setBufferWaiting c false

theorem distribute (h : GrantFrame s t) (n : Nat) : GrantFrame s (distribute n t) := by
  induction n generalizing t with
  | zero => exact h
  | succ n ih =>
    unfold Machine.distribute
    split
    · exact h
    · split
      · exact h
      · exact ih (h.grantBuffer _)

theorem grantFree (h : GrantFrame s t) : GrantFrame s (grantFree t) := h.distribute _

theorem askBuffer (h : GrantFrame s t) (c : CellId) : GrantFrame s (askBuffer c t) := by
  unfold Machine.askBuffer
  split
  · exact (h.setBufferWaiting c true).grantFree
  · exact h

theorem load_state (h : GrantFrame s t) (d : CellId) : (t.load d).state = (s.load d).state := by rw [h.load]
theorem load_program (h : GrantFrame s t) (d : CellId) : (t.load d).program = (s.load d).program := by rw [h.load]
theorem load_length (h : GrantFrame s t) (d : CellId) : (t.load d).length = (s.load d).length := by rw [h.load]
theorem load_catalogCheck (h : GrantFrame s t) (d : CellId) : (t.load d).catalogCheck = (s.load d).catalogCheck := by rw [h.load]
theorem load_relayed (h : GrantFrame s t) (d : CellId) : (t.load d).relayed = (s.load d).relayed := by rw [h.load]
theorem load_crc (h : GrantFrame s t) (d : CellId) : (t.load d).crc = (s.load d).crc := by rw [h.load]
theorem cells (h : GrantFrame s t) : t.cells = s.cells := by rw [h.rest]
theorem cell (h : GrantFrame s t) (d : CellId) : t.cell d = s.cell d := by unfold State.cell; rw [h.cells]
theorem lots (h : GrantFrame s t) : t.lots = s.lots := by rw [h.rest]
theorem lot (h : GrantFrame s t) (x : LotSlot) : t.lot x = s.lot x := by unfold State.lot; rw [h.lots]
theorem ports (h : GrantFrame s t) : t.ports = s.ports := by rw [h.rest]
theorem catalog (h : GrantFrame s t) : t.catalog = s.catalog := by rw [h.rest]
theorem products (h : GrantFrame s t) : t.products = s.products := by rw [h.rest]
theorem waitList (h : GrantFrame s t) : t.waitList = s.waitList := by rw [h.rest]
theorem waiting (h : GrantFrame s t) : t.waiting = s.waiting := by rw [h.rest]
theorem pointer (h : GrantFrame s t) : t.pointer = s.pointer := by rw [h.rest]
theorem tallies (h : GrantFrame s t) : t.tallies = s.tallies := by rw [h.rest]

end GrantFrame

/-! ### A load's start (R88) -/

/-- The load of a usable revision begins and asks for its buffers (R88). -/
theorem startLoad_approved {c : CellId} {p : ProgramRev} {s : State} {e : CatEntry} (he : s.entry p.name p.revision = some e)
    (ha : e.state = .approved) : startLoad c p s = (askBuffer c (modLoad c (fun _ => startedLoad p e) s), true) := by
  unfold startLoad
  rw [he]
  dsimp only
  rw [if_pos ha]

/-- The load of a revision that is not usable ends at once with SUSPENDED (R88). -/
theorem startLoad_refused {c : CellId} {p : ProgramRev} {s : State} {d : Load} (h : s.approved p.name p.revision = false)
    (hd : d = { s.load c with program := some p, state := .failed, error := some .suspended }) :
    startLoad c p s = (raise (loadDoneReport c d) (modLoad c (fun _ => d) s), false) := by
  unfold State.approved at h
  have same : modLoad c (fun d => { d with program := some p, state := .failed, error := some .suspended }) s
      = modLoad c (fun _ => d) s := modLoad_congr hd.symm
  unfold startLoad
  rw [same]
  dsimp only
  rw [modLoad_load_self]
  split
  · next e he =>
    rw [he] at h
    rw [if_neg (by simpa using h)]
  · rfl

/-- A cell that goes on to LOADING with a usable revision: its load WANTING from the start, and of the other records only the buffer
pool, the other loads' wants and the reports changed (R49, R88, R91). -/
theorem setupFromPause_loading {rnd : Round} {s : State} {c : CellId} {ref : PortionRef} {l : Lot} {p : Portion} {st : StepRec}
    {v : Nat} {e : CatEntry} (hw : s.currentWork c = some (ref, l, p, st)) (hp : (s.cell c).pause.isEmpty) (hv : p.revision = some v)
    (hg : (s.cell c).program ≠ some ⟨st.program, v⟩) (he : s.entry st.program v = some e) (ha : e.state = .approved)
    (hs : (s.cell c).state ≠ .loading) :
    GrantFrame (modLoad c (fun _ => startedLoad ⟨st.program, v⟩ e)
      (raise (.cellState c (s.cell c).state .loading (s.cell c).pause (s.cell c).fault) (s.setCell c { s.cell c with state := .loading })))
      (setupFromPause rnd c s) := by
  have begun := startLoad_approved (c := c) (p := ⟨st.program, v⟩) (s := setCellState c .loading s) (e := e)
    (by rw [setCellState_ne hs, ← he]; simp [State.entry]) ha
  rw [setupFromPause_load hw hp hv hg, begun, ← setCellState_ne hs]
  exact (GrantFrame.refl _).askBuffer c

end Sys2Proof.CellProofs
end

section
namespace Sys2Proof.CellProofs

open Sys2Proof Sys2Proof.Machine

/-- A drain of a cell with an empty pending slot: STOP, the soak and dwell timers stopped, DRAINING (R58, R59). -/
theorem drain_eq {rnd : Round} {c : CellId} {s : State} (hp : (s.cell c).pendingSlot = none) (hs : (s.cell c).state ≠ .draining) :
    drain rnd c s = setWaiting c false (raise (.cellState c (s.cell c).state .draining (s.cell c).pause (s.cell c).fault)
      ((sendFrame c .stop s).setCell c { s.cell c with state := .draining, soakTimer := none, dwellTimer := none })) := by
  unfold drain
  dsimp only
  rw [returnPending_none (by simpa using hp), modCell_eq, setCellState_setCell (by simpa using hs), updateWaiting_not]
  · simp
  · exact waits_of_state (by simp) (by simp)

/-! ### KIT (R52) -/

theorem kitGood_iff (code : Text) :
    (readTrailingText 8 code = .value code && !code.isEmpty) = validKit code := by
  rw [Bool.eq_iff_iff]
  simp only [Bool.and_eq_true, decide_eq_true_eq, readTrailingKit]
  cases code <;> simp [validKit, validText]

/-- A KIT on an UP link, malformed or not (R52, R108). -/
theorem execKit_up {c : CellId} {code : Text} {s : State} (hl : (s.cell c).linkUp) :
    exec (.kit c code) s = .next (settleHost
      (if validKit code then kitArrives offerRound c code (s.heard c) else malformedFrame c .kit (s.heard c))) := by
  refine congrArg Host.Outcome.next ((stationFrame_up hl).trans ?_)
  rw [kitGood_iff]

/-- The kit that the portion in the current slot needs (R52). -/
theorem wantedKit_of_work {s : State} {c : CellId} {ref : PortionRef} {l : Lot} {p : Portion} {st : StepRec}
    (hw : s.currentWork c = some (ref, l, p, st)) : s.wantedKit c = some st.kit := by
  simp [State.wantedKit, hw]

/-- A kit that the cell has no use for, or that leaves its run or its wait as they are, is only stored (R52). -/
theorem kitArrives_stored {c : CellId} {code : Text} {s : State}
    (h : (s.cell c).state ∈ [.loading, .purging, .draining, .down, .offline] ∨ (s.cell c).state = .paused ∧ (s.cell c).runStarted = false
      ∨ (s.cell c).state ∈ [.running, .soaking, .paused] ∧ s.wantedKit c = some code
      ∨ (s.cell c).state = .reserved ∧ ¬ s.wantedKit c = some code ∨ (s.cell c).state = .idle ∧ s.waitList = []) :
    kitArrives offerRound c code s = s.setCell c { s.cell c with kit := some code } := by
  unfold kitArrives
  dsimp only
  rw [modCell_eq]
  split
  · next hst => rw [if_neg (by simpa [hst] using h)]
  · next hst => rw [if_pos (by simpa [hst] using h)]
  · next hst => rw [if_pos (by simpa [hst] using h)]
  · next hst => rw [if_pos (by simpa [hst, or_comm] using h)]
  · next hst => rw [offerRound_empty (by simpa [hst] using h), ite_self]
  all_goals rfl

/-- A run whose kit is lost drains (R52). -/
theorem kitArrives_drains {rnd : Round} {c : CellId} {code : Text} {s : State}
    (h : (s.cell c).state = .running ∨ ((s.cell c).state = .soaking ∨ (s.cell c).state = .paused) ∧ (s.cell c).runStarted)
    (hw : ¬ s.wantedKit c = some code) :
    kitArrives rnd c code s = drain rnd c (s.setCell c { s.cell c with kit := some code }) := by
  unfold kitArrives
  dsimp only
  rw [modCell_eq]
  rcases h with hst | ⟨hst | hst, hr⟩ <;> rw [hst] <;> dsimp only
  · rw [if_neg hw]
  · rw [if_neg hw, if_pos hr]
  · rw [if_neg (by simp [hw, hr])]

/-- A soak whose run has not started and whose kit is lost: RESERVED again, with its CHANGEOVER report (R52). -/
theorem kitArrives_lost {rnd : Round} {c : CellId} {code : Text} {s : State} {ref : PortionRef} {l : Lot} {p : Portion} {st : StepRec}
    (hw : s.currentWork c = some (ref, l, p, st)) (hs : (s.cell c).state = .soaking) (hr : (s.cell c).runStarted = false)
    (hk : st.kit ≠ code) :
    kitArrives rnd c code s = kitLost c (s.setCell c { s.cell c with kit := some code }) := by
  unfold kitArrives
  dsimp only
  rw [modCell_eq, hs]
  dsimp only
  rw [if_neg (by simpa [wantedKit_of_work hw] using hk), if_neg (by simp [hr])]

/-- The kit that a RESERVED cell waits for: its setup check goes on (R52). -/
theorem kitArrives_reserved {rnd : Round} {c : CellId} {code : Text} {s : State} {ref : PortionRef} {l : Lot} {p : Portion}
    {st : StepRec} (hw : s.currentWork c = some (ref, l, p, st)) (hs : (s.cell c).state = .reserved) (hk : st.kit = code) :
    kitArrives rnd c code s = setupFromPause rnd c (s.setCell c { s.cell c with kit := some code }) := by
  unfold kitArrives
  dsimp only
  rw [modCell_eq, hs]
  dsimp only
  rw [if_pos (by simpa [wantedKit_of_work hw] using hk)]

/-- Settles O35, by what KIT means in the cell's state: stored, drained, lost, or the wanted kit of a RESERVED cell. -/
theorem kitFramesActByState : Obligations.KitFramesActByState := by
  unfold Obligations.KitFramesActByState
  refine ⟨fun s c code => ⟨fun hl hbad => ?_, fun hd => congrArg Host.Outcome.next (stationFrame_down hd)⟩, ?_⟩
  · rw [execKit_up hl, hbad]
    rfl
  intro s u c code x wanted hl hgood hx hu hwanted
  have arrives : exec (.kit c code) s = .next (settleHost (kitArrives offerRound c code (s.heard c))) := by
    rw [execKit_up hl, if_pos hgood]
  have hu' : u = (s.heard c).setCell c { (s.heard c).cell c with kit := some code } := by rw [hu, hx]; rfl
  have huc : u.cell c = x := by simp [hu]
  subst hwanted
  refine ⟨fun h => ?_, fun h hw hp => ?_, fun ref l p st hw => ?_⟩
  · rw [arrives, kitArrives_stored (s := s.heard c) h, ← hu']
  · have hst : x.state = (s.cell c).state := by rw [hx]
    rw [arrives, kitArrives_drains (s := s.heard c) h hw, ← hu', drain_eq (by rw [huc, hx]; exact hp), huc, hst]
    rw [huc, hst]
    rcases h with h | ⟨h | h, -⟩ <;> simp [h]
  · have hwu : u.currentWork c = some (ref, l, p, st) := by
      rw [← hw]
      exact currentWork_congr (by rw [huc, hx]) (by rw [hu]; rfl) (by rw [hu]; rfl)
    have hxp : x.pause = (s.cell c).pause := by rw [hx]
    have hxs : x.state = (s.cell c).state := by rw [hx]
    have hxg : x.program = (s.cell c).program := by rw [hx]
    refine ⟨fun hs hr hk => ?_, fun hs hk hp => ?_, fun hs hk hp hg => ?_, fun r e hs hk hp hr hg he ha => ?_⟩
    · have lost : kitLost c u = raise (.changeover c l.id p.number st.kit x.kit)
          (setCellState c .reserved (modCell c (fun x => { x with soakTimer := none, dwellTimer := none }) u)) := by
        unfold kitLost
        rw [hwu, huc]
      rw [arrives, kitArrives_lost (s := s.heard c) hw hs hr hk, ← hu', lost, modCell_eq, huc, setCellState_setCell (by simp [hxs, hs])]
      simp [hs, hx]
    all_goals rw [arrives, kitArrives_reserved (s := s.heard c) hw hs hk, ← hu']
    · rw [setupFromPause_paused hwu (by rw [huc, hxp]; exact hp), setCellState_ne (by simp [huc, hxs, hs]), huc, hxs, hs]
    · rw [setupFromPause_loaded hwu (by rw [huc, hxp]; exact hp) (by rw [huc, hxg]; exact hg),
        enterSoaking_eq hwu (by simp [huc, hxs, hs]), huc, hxs, hs]
    · have hue : u.entry st.program r = some e := by rw [← he, hu]; rfl
      have frame := setupFromPause_loading (rnd := offerRound) hwu (by rw [huc, hxp]; exact hp) hr (by rw [huc, hxg]; exact hg) hue ha
        (by rw [huc, hxs, hs]; simp)
      refine ⟨_, rfl, ?_⟩
      simp only [settleHost_cell, settleHost_load, settleHost_lots, settleHost_catalog, settleHost_waitList, settleHost_waiting,
        frame.cell, frame.load_state, frame.load_program,
        frame.load_length, frame.load_catalogCheck, frame.load_relayed, frame.load_crc, frame.lots, frame.catalog, frame.waitList, frame.waiting]
      simp [hu, hx, startedLoad, crc32Init]

end Sys2Proof.CellProofs
end

section
namespace Sys2Proof.CellProofs

open Sys2Proof Sys2Proof.Machine

/-! ### A lot's state recomputed (R20), and a portion queued again (R23, R71) -/

/-- A lot-changed event touches the shipments alone (R163). -/
theorem lotChanged_rest (x : LotSlot) (s : State) : lotChanged x s = { s with ships := (lotChanged x s).ships } := by
  unfold lotChanged
  split <;> rfl

/-- A recomputation touches the lots, the shipments and the reports (R20). -/
structure LotFrame (s t : State) : Prop where
  rest : t = { s with lots := t.lots, ships := t.ships, host := t.host }

namespace LotFrame

variable {s t u : State}

theorem refl (s : State) : LotFrame s s := ⟨rfl⟩

theorem trans (h : LotFrame s t) (k : LotFrame t u) : LotFrame s u := ⟨k.rest.trans (by rw [h.rest])⟩

theorem raise (h : LotFrame s t) (r : Report) : LotFrame s (raise r t) := h.trans ⟨by rw [raise_eq]⟩

theorem setLot (h : LotFrame s t) (x : LotSlot) (l : Option Lot) : LotFrame s (t.setLot x l) := h.trans ⟨rfl⟩

theorem modPortion (h : LotFrame s t) (ref : PortionRef) (f : Portion → Portion) : LotFrame s (modPortion ref f t) := h.trans ⟨rfl⟩

theorem lotChanged (h : LotFrame s t) (x : LotSlot) : LotFrame s (lotChanged x t) := by
  refine h.trans ⟨?_⟩
  unfold Machine.lotChanged
  split <;> rfl

theorem setLotState (h : LotFrame s t) (x : LotSlot) (st : LotState) : LotFrame s (setLotState x st t) := by
  unfold Machine.setLotState
  split
  · exact h
  · split
    · exact h
    · exact ((h.setLot _ _).raise _).lotChanged _

theorem refreshLot (h : LotFrame s t) (x : LotSlot) : LotFrame s (refreshLot x t) := by
  unfold Machine.refreshLot
  split
  · exact h
  · split
    · exact h
    · exact h.setLotState _ _

theorem cells (h : LotFrame s t) : t.cells = s.cells := by rw [h.rest]
theorem cell (h : LotFrame s t) (d : CellId) : t.cell d = s.cell d := by unfold State.cell; rw [h.cells]
theorem ports (h : LotFrame s t) : t.ports = s.ports := by rw [h.rest]
theorem port (h : LotFrame s t) (d : CellId) : t.port d = s.port d := by unfold State.port; rw [h.ports]
theorem loads (h : LotFrame s t) : t.loads = s.loads := by rw [h.rest]
theorem catalog (h : LotFrame s t) : t.catalog = s.catalog := by rw [h.rest]
theorem products (h : LotFrame s t) : t.products = s.products := by rw [h.rest]
theorem waitList (h : LotFrame s t) : t.waitList = s.waitList := by rw [h.rest]
theorem waiting (h : LotFrame s t) : t.waiting = s.waiting := by rw [h.rest]
theorem tallies (h : LotFrame s t) : t.tallies = s.tallies := by rw [h.rest]
theorem pointer (h : LotFrame s t) : t.pointer = s.pointer := by rw [h.rest]

end LotFrame

@[simp] theorem lotChanged_lots (x : LotSlot) (s : State) : (lotChanged x s).lots = s.lots := by rw [lotChanged_rest]
@[simp] theorem lotChanged_lot (x y : LotSlot) (s : State) : (lotChanged x s).lot y = s.lot y := by
  unfold State.lot; rw [lotChanged_lots]

/-- A lot's record once its state has been set (R20). -/
theorem setLotState_lot {x : LotSlot} {st : LotState} {s : State} {l : Lot} (hl : s.lot x = some l) (y : LotSlot) :
    (setLotState x st s).lot y = if x = y then some { l with state := st } else s.lot y := by
  unfold setLotState
  rw [hl]
  dsimp only
  split
  · next h =>
    split
    · next e => subst e; rw [hl, ← h]
    · rfl
  · rw [lotChanged_lot, raise_lot, setLot_lot]

/-- A lot's state as a recomputation leaves it: one set directly stays (R20). -/
def refreshed (s : State) (x : LotSlot) (l : Lot) : Lot :=
  { l with state := if l.state.direct then l.state else l.derived (s.inReleased x) }

theorem refreshLot_lot {x : LotSlot} {s : State} {l : Lot} (hl : s.lot x = some l) (y : LotSlot) :
    (refreshLot x s).lot y = if x = y then some (refreshed s x l) else s.lot y := by
  unfold refreshLot refreshed
  rw [hl]
  dsimp only
  by_cases hd : l.state.direct = true
  · rw [if_pos hd, if_pos hd]
    split
    · next e => subst e; exact hl
    · rfl
  · rw [if_neg hd, if_neg hd, setLotState_lot hl]

/-- A portion of a lot once it has been changed, its number as it was. -/
theorem portion_modPortion {l : Lot} {n : Nat} {p : Portion} {f : Portion → Portion} (hp : l.portion n = some p)
    (hf : ∀ q, (f q).number = q.number) : (l.modPortion n f).portion n = some (f p) := by
  unfold Lot.portion Lot.modPortion at *
  rw [List.find?_map]
  have same : ((fun q : Portion => decide (q.number = n)) ∘ fun q => if q.number = n then f q else q)
      = fun q => decide (q.number = n) := by
    funext q
    by_cases h : q.number = n <;> simp [h, hf]
  have hn : p.number = n := by simpa using List.find?_some hp
  rw [same, hp]
  simp [hn]

/-- Another portion of a lot than the one changed. -/
theorem portion_modPortion_other {l : Lot} {n m : Nat} {f : Portion → Portion} (hm : m ≠ n) (hf : ∀ q, (f q).number = q.number) :
    (l.modPortion n f).portion m = l.portion m := by
  unfold Lot.portion Lot.modPortion
  rw [List.find?_map]
  have same : ((fun q : Portion => decide (q.number = m)) ∘ fun q => if q.number = n then f q else q)
      = fun q => decide (q.number = m) := by
    funext q
    by_cases h : q.number = n <;> simp [h, hf]
  rw [same]
  cases h : List.find? (fun q : Portion => decide (q.number = m)) l.portions with
  | none => rfl
  | some q =>
    have hq : q.number = m := by simpa using List.find?_some h
    simp [hq, hm]

theorem modPortion_lot {ref : PortionRef} {f : Portion → Portion} {s : State} {l : Lot} (hl : s.lot ref.lot = some l) (y : LotSlot) :
    (modPortion ref f s).lot y = if ref.lot = y then some (l.modPortion ref.portion f) else s.lot y := by
  unfold modPortion
  rw [modLot_lot, hl]
  rfl

theorem hasEntry_insertEntry (s : State) (e : WaitEntry) (es : List WaitEntry) :
    (insertEntry s e es).any (fun f => f.lot = e.lot) = true := by
  induction es with
  | nil => simp [insertEntry]
  | cons x xs ih =>
    unfold insertEntry
    split
    · simp
    · simp only [List.any_cons, ih, Bool.or_true]

/-- An entry-needed event while no cell waits: the lot has an entry, and nothing but the wait list has changed (R71, R79). -/
theorem entryNeeded_quiet {x : LotSlot} {s : State} {l : Lot} (hl : s.lot x = some l) (hq : s.noCellWaits) :
    (∃ w, entryNeeded offerRound x s = { s with waitList := w }) ∧ (entryNeeded offerRound x s).hasEntry x := by
  unfold entryNeeded
  rw [hl]
  dsimp only
  split
  · next h => exact ⟨⟨s.waitList, rfl⟩, h⟩
  · rw [offerRound_quiet (by exact hq)]
    exact ⟨⟨_, rfl⟩, hasEntry_insertEntry s ⟨x, l.priority, l.stepReady, 0⟩ s.waitList⟩

/-- A portion queued again while no cell waits: its lot has an entry and no other lot changes; beside the lots, the wait list, the
shipments and the reports everything is as it was (R20, R23, R71). -/
structure Requeued (ref : PortionRef) (p : Portion) (s t : State) : Prop where
  rest : t = { s with lots := t.lots, waitList := t.waitList, ships := t.ships, host := t.host }
  portion : ((t.lot ref.lot).bind fun l => l.portion ref.portion) = some { p with state := .queued }
  entry : t.hasEntry ref.lot
  others : ∀ y, y ≠ ref.lot → t.lot y = s.lot y

namespace Requeued

variable {ref : PortionRef} {p : Portion} {s t : State}

theorem cells (h : Requeued ref p s t) : t.cells = s.cells := by rw [h.rest]
theorem cell (h : Requeued ref p s t) (d : CellId) : t.cell d = s.cell d := by unfold State.cell; rw [h.cells]
theorem loads (h : Requeued ref p s t) : t.loads = s.loads := by rw [h.rest]
theorem load (h : Requeued ref p s t) (d : CellId) : t.load d = s.load d := by unfold State.load; rw [h.loads]
theorem waiting (h : Requeued ref p s t) : t.waiting = s.waiting := by rw [h.rest]
theorem buffers (h : Requeued ref p s t) : t.buffers = s.buffers := by rw [h.rest]
theorem bufferWaiting (h : Requeued ref p s t) : t.bufferWaiting = s.bufferWaiting := by rw [h.rest]
theorem tallies (h : Requeued ref p s t) : t.tallies = s.tallies := by rw [h.rest]

end Requeued

theorem requeue {ref : PortionRef} {s : State} {l : Lot} {p : Portion} (hl : s.lot ref.lot = some l) (hp : l.portion ref.portion = some p)
    (hq : s.noCellWaits) :
    Requeued ref p s (entryNeeded offerRound ref.lot (refreshLot ref.lot (modPortion ref (fun p => { p with state := .queued }) s))) := by
  generalize hm : modPortion ref (fun p => { p with state := .queued }) s = m
  have frame : LotFrame s (refreshLot ref.lot m) := by
    rw [← hm]
    exact ((LotFrame.refl s).modPortion _ _).refreshLot _
  have hml (y : LotSlot) : m.lot y = if ref.lot = y then some (l.modPortion ref.portion fun p => { p with state := .queued }) else s.lot y := by
    rw [← hm, modPortion_lot hl]
  have hrl := refreshLot_lot (s := m) (by rw [hml, if_pos rfl])
  obtain ⟨⟨w, hw⟩, he⟩ := entryNeeded_quiet (x := ref.lot) (by rw [hrl, if_pos rfl])
    (fun c => (congrArg (fun v => v.get c) frame.waiting).trans (hq c))
  rw [hw] at he ⊢
  refine ⟨?_, ?_, he, fun y hy => ?_⟩
  · exact congrArg (fun v : State => { v with waitList := w }) frame.rest
  · change ((refreshLot ref.lot m).lot ref.lot).bind _ = _
    rw [hrl, if_pos rfl]
    exact portion_modPortion hp fun _ => rfl
  · change (refreshLot ref.lot m).lot y = _
    rw [hrl, if_neg (Ne.symm hy), hml, if_neg (Ne.symm hy)]

/-- A portion with units left, of a lot that is not SCRAPPING, leaves its cell QUEUED while no cell waits (R25, R71). -/
theorem leaveCell_requeued {b : Bool} {c : CellId} {s : State} {ref : PortionRef} {l : Lot} {p : Portion}
    (hc : (s.cell c).current = some ref) (hl : s.lot ref.lot = some l) (hp : l.portion ref.portion = some p)
    (hs : l.state ≠ .scrapping) (hr : 0 < p.r) (hq : s.noCellWaits) :
    Requeued ref p (modCell c (fun x => { x with current := none }) s) (leaveCell offerRound b c s) := by
  unfold leaveCell
  rw [hc]
  dsimp only
  rw [hl]
  dsimp only
  rw [hp]
  dsimp only
  rw [if_neg hs, if_pos hr]
  exact requeue (s := modCell c (fun x => { x with current := none }) s) hl hp hq

end Sys2Proof.CellProofs
end

section
namespace Sys2Proof.CellProofs

open Sys2Proof Sys2Proof.Machine

/-! ### A pause reason removed (R53) -/

theorem drop_isEmpty {p : PauseSet} {r : PauseReason} (h : (p.drop r).isEmpty) : p.drop r = PauseSet.empty := by
  generalize p.drop r = q at h
  obtain ⟨a, b, c⟩ := q
  simpa [PauseSet.isEmpty, PauseSet.empty, and_assoc] using h

/-- An absent reason changes nothing (R53). -/
theorem removePause_absent {rnd : Round} {c : CellId} {r : PauseReason} {s : State} (h : (s.cell c).pause.has r = false) :
    removePause rnd c r s = s := by
  simp [removePause, h]

/-- The last reason leaves and the cell acts by its state (R53). -/
theorem removePause_last {rnd : Round} {c : CellId} {r : PauseReason} {s : State} (h : (s.cell c).pause.has r)
    (he : ((s.cell c).pause.drop r).isEmpty) :
    removePause rnd c r s = resumeCell rnd c (s.setCell c { s.cell c with pause := PauseSet.empty }) := by
  unfold removePause
  rw [if_pos h]
  dsimp only
  rw [modCell_cell_self, if_pos he, modCell_eq, drop_isEmpty he]

/-- A reason leaves and another stays, or the cell is in no pausing state: only the set changes (R53). -/
theorem removePause_only {rnd : Round} {c : CellId} {r : PauseReason} {s : State} (h : (s.cell c).pause.has r)
    (hs : ((s.cell c).pause.drop r).isEmpty = false ∨ (s.cell c).state ≠ .paused ∧ (s.cell c).state ≠ .idle) :
    removePause rnd c r s = modCell c (fun x => { x with pause := x.pause.drop r }) s := by
  unfold removePause
  rw [if_pos h]
  dsimp only
  rw [modCell_cell_self]
  rcases hs with he | ⟨hnp, hni⟩
  · rw [if_neg (by simp [he])]
  · refine ite_eq_right_iff.mpr fun _ => ?_
    unfold resumeCell
    dsimp only
    rw [modCell_cell_self]
    split
    · exact absurd ‹_› hnp
    · exact absurd ‹_› hni
    all_goals rfl

/-- The states a removal of a pause reason is handed: that of a proved request, or of a frame heard (R108, R173). -/
structure Handed (s v : State) : Prop where
  cells : v.cells = s.cells
  lots : v.lots = s.lots
  products : v.products = s.products
  catalog : v.catalog = s.catalog
  waitList : v.waitList = s.waitList
  waiting : v.waiting = s.waiting

namespace Handed

variable {s v : State}

theorem cell (h : Handed s v) (c : CellId) : v.cell c = s.cell c := by unfold State.cell; rw [h.cells]
theorem lot (h : Handed s v) (x : LotSlot) : v.lot x = s.lot x := by unfold State.lot; rw [h.lots]
theorem currentWork (h : Handed s v) (c : CellId) : v.currentWork c = s.currentWork c :=
  currentWork_congr (by rw [h.cell]) h.lots h.products
theorem entry (h : Handed s v) (n : Text) (r : Nat) : v.entry n r = s.entry n r := by unfold State.entry; rw [h.catalog]
theorem approved (h : Handed s v) (n : Text) (r : Nat) : v.approved n r = s.approved n r := by unfold State.approved; rw [h.entry]

end Handed

/-- CELL-RESUME or JAM-CLEAR as it reaches its cell, and what is done once it has acted (R55, R56). -/
def Removes (s u : State) (c : CellId) (r : PauseReason) (command : Instr) (done : State → State) : Prop :=
  r = .operator ∧ (s.cell c).configured ∧ u = s ∧ (∃ tag, s.takes tag ∧ command = .cellResume tag c.val
    ∧ done = fun t => State.answered tag .cellResume (okWith (.paused (t.cell c).state (t.cell c).pause)) t)
  ∨ r = .jam ∧ (s.cell c).linkUp ∧ u = s.heard c ∧ command = .jamClear c ∧ done = settleHost

section

variable {s u : State} {c : CellId} {r : PauseReason} {command : Instr} {done : State → State}

theorem removes_exactly (h : Removes s u c r command done) (F : State → State)
    (hF : ∀ v, Handed s v → removePause offerRound c r v = F v) (hp : F s.proved = (F s).proved) :
    exec command s = .next (done (F u)) := by
  rcases h with ⟨rfl, hc, rfl, tag, ht, rfl, rfl⟩ | ⟨rfl, hl, rfl, rfl, rfl⟩
  · refine congrArg Host.Outcome.next (takeRequest_proved ht ?_)
    rw [onCell_proved hc, hF u.proved ⟨rfl, rfl, rfl, rfl, rfl, rfl⟩, hp]
    rfl
  · refine congrArg Host.Outcome.next ((stationFrame_up hl).trans ?_)
    rw [hF (s.heard c) ⟨rfl, rfl, rfl, rfl, rfl, rfl⟩]

/-- The receiver of the host line: no operation of the Cell Manager touches it. -/
theorem kept_rx : Kept fun t => t.host.rx = Receiver.between where
  cells _ _ h := h
  loads _ _ h := h
  lots _ _ h := h
  tallies _ _ h := h
  ships _ _ h := h
  checkMarks _ _ h := h
  summary _ _ _ h := by simpa using h
  noSummaries _ _ h := h
  runGroups _ _ h := h
  waiting _ _ h := h
  bufferWaiting _ _ h := h
  waitList _ _ h := h
  pointer _ _ h := h
  buffers _ _ h := h
  grantPointer _ _ h := h
  port _ _ _ _ h := h
  product _ _ _ _ h := h
  raise _ _ h := by simpa using h

/-- What the removal leaves of the records, where the reports it sends are not named. -/
theorem removes_to (h : Removes s u c r command done) : ∃ v t, Handed s v ∧ exec command s = .next t
    ∧ t.cells = (removePause offerRound c r v).cells ∧ t.loads = (removePause offerRound c r v).loads
    ∧ t.lots = (removePause offerRound c r v).lots ∧ t.catalog = (removePause offerRound c r v).catalog
    ∧ t.waitList = (removePause offerRound c r v).waitList := by
  rcases h with ⟨rfl, hc, rfl, tag, ht, rfl, rfl⟩ | ⟨rfl, hl, rfl, rfl, rfl⟩
  · refine ⟨u.proved, _, ⟨rfl, rfl, rfl, rfl, rfl, rfl⟩, congrArg Host.Outcome.next (takeRequest_taken ht
      (onCell_proved (act := fun c t => pauseAnswer c (removePause offerRound c .operator t)) hc)
      (kept_rx.removePause kept_rx.offerRound rfl)), rfl, rfl, rfl, rfl, rfl⟩
  · exact ⟨s.heard c, _, ⟨rfl, rfl, rfl, rfl, rfl, rfl⟩, congrArg Host.Outcome.next (stationFrame_up hl), rfl, rfl, rfl, rfl, rfl⟩

end

section

variable {rnd : Round} {c : CellId} {r : PauseReason} {v : State} {x : Cell} (h : (v.cell c).pause.has r)
  (he : ((v.cell c).pause.drop r).isEmpty)

include h he

/-- An IDLE cell whose last pause reason leaves may wait for work (R48, R53). -/
theorem removePause_idle (hs : (v.cell c).state = .idle) (hw : v.waitList = []) (hx : x = { v.cell c with pause := PauseSet.empty }) :
    removePause offerRound c r v = setWaiting c x.waits (v.setCell c x) := by
  have hxs : x.state = .idle := by rw [hx, hs]
  rw [removePause_last h he, ← hx]
  unfold resumeCell
  dsimp only
  rw [setCell_cell_self, hxs]
  dsimp only
  rw [updateWaiting_empty (by exact hw), setCell_cell_self]

/-- A PAUSED cell whose run has tested units is sent RESUME and is RUNNING (R53). -/
theorem removePause_resumed (hs : (v.cell c).state = .paused) (hr : (v.cell c).runStarted) (ht : (v.cell c).runTested ≠ 0)
    (hw : v.waitList = []) (hx : x = { v.cell c with pause := PauseSet.empty, state := .running }) :
    removePause offerRound c r v = setWaiting c x.waits (raise (.cellState c .paused .running PauseSet.empty x.fault)
      ((sendFrame c .resume v).setCell c x)) := by
  rw [removePause_last h he]
  generalize hy : ({ v.cell c with pause := PauseSet.empty } : Cell) = y
  have hys : y.state = .paused := by rw [← hy, hs]
  have hyr : y.runStarted = true := by rw [← hy]; exact hr
  have hyt : y.runTested ≠ 0 := by rw [← hy]; exact ht
  have hyl : y.linkUp = (v.cell c).linkUp := by rw [← hy]
  have hyx : { y with state := .running } = x := by rw [hx, ← hy]
  unfold resumeCell
  dsimp only
  rw [setCell_cell_self, hys]
  dsimp only
  rw [if_neg (by simp [hyr]), if_neg hyt, sendFrame_setCell _ _ _ _ _ hyl, setCellState_setCell (by simp [hys]), hyx, hys,
    updateWaiting_empty (by simpa using hw)]
  simp [← hy, hx]

/-- A PAUSED cell whose run has tested no unit soaks again (R53). -/
theorem removePause_soaks {ref : PortionRef} {l : Lot} {p : Portion} {st : StepRec} (hs : (v.cell c).state = .paused)
    (hr : (v.cell c).runStarted) (ht : (v.cell c).runTested = 0) (hw : v.currentWork c = some (ref, l, p, st))
    (hx : x = { v.cell c with
      pause := PauseSet.empty, state := .soaking, soakTimer := some st.soakTimeout, dwellTimer := none }) :
    removePause rnd c r v = raise (.cellState c .paused .soaking PauseSet.empty x.fault)
      ((sendFrame c (.soak st.tempClass) v).setCell c x) := by
  rw [removePause_last h he]
  generalize hy : ({ v.cell c with pause := PauseSet.empty } : Cell) = y
  have hys : y.state = .paused := by rw [← hy, hs]
  have hyr : y.runStarted = true := by rw [← hy]; exact hr
  have hyt : y.runTested = 0 := by rw [← hy]; exact ht
  have hyl : y.linkUp = (v.cell c).linkUp := by rw [← hy]
  have hyw : (v.setCell c y).currentWork c = some (ref, l, p, st) := by
    rw [← hw]
    exact currentWork_congr (by simp [← hy]) rfl rfl
  unfold resumeCell
  dsimp only
  rw [setCell_cell_self, hys]
  dsimp only
  rw [if_neg (by simp [hyr]), if_pos hyt, enterSoaking_eq hyw (by simp [hys]), sendFrame_setCell _ _ _ _ _ hyl, setCell_setCell,
    setCell_cell_self, hys]
  simp [← hy, hx]

/-- A PAUSED cell whose last pause reason leaves before its run has started makes its setup check (R49, R53). -/
theorem removePause_setup (hs : (v.cell c).state = .paused) (hr : (v.cell c).runStarted = false)
    (hx : x = { v.cell c with pause := PauseSet.empty }) : removePause rnd c r v = setupCheck rnd c (v.setCell c x) := by
  have hxs : x.state = .paused := by rw [hx, hs]
  have hxr : x.runStarted = false := by rw [hx, ← hr]
  rw [removePause_last h he, ← hx]
  unfold resumeCell
  dsimp only
  rw [setCell_cell_self, hxs]
  dsimp only
  rw [if_pos (by simp [hxr])]

end

/-- A load refused at its start sends the portion back: the LOADING cell is IDLE and cleared, its portion QUEUED with its lot in the wait
list, while no cell waits and the cell may take no new work (R25, R51, R71, R88). -/
theorem loadFailed_suspended {c : CellId} {s : State} {ref : PortionRef} {l : Lot} {p : Portion} (hst : (s.cell c).state = .loading)
    (hc : (s.cell c).current = some ref) (hl : s.lot ref.lot = some l) (hp : l.portion ref.portion = some p)
    (hs : l.state ≠ .scrapping) (hr : 0 < p.r) (hq : s.noCellWaits) (hd : (s.cell c).maintenanceDue)
    (hf : (s.cell c).loadFailures < 3) :
    (loadFailed offerRound c .suspended s).cell c
      = { (s.cell c).dropHold with state := .idle, cleared := true, program := none, current := none }
    ∧ (loadFailed offerRound c .suspended s).loads = s.loads
    ∧ (((loadFailed offerRound c .suspended s).lot ref.lot).bind fun l => l.portion ref.portion) = some { p with state := .queued }
    ∧ (loadFailed offerRound c .suspended s).hasEntry ref.lot := by
  have gone := leaveCell_requeued (b := true) (c := c) (s := modCell c (fun x => { x with program := none }) s) (by simpa using hc) hl hp hs hr hq
  generalize ht : leaveCell offerRound true c (modCell c (fun x => { x with program := none }) s) = t at gone
  have htc : t.cell c = { s.cell c with program := none, current := none } := by rw [gone.cell]; simp
  have back : loadFailed offerRound c .suspended s
      = setWaiting c false (raise (.cellState c .loading .idle (s.cell c).dropHold.pause (s.cell c).fault)
        (t.setCell c { (s.cell c).dropHold with state := .idle, cleared := true, program := none, current := none })) := by
    unfold loadFailed
    rw [if_pos (by simp [hst])]
    dsimp only
    rw [ht, modCell_eq, htc, setCell_cell_self, if_neg (by simpa [LoadError.counted, Cell.dropHold] using hf), modCell_setCell,
      setCellState_setCell (by simp [Cell.dropHold, hst]), updateWaiting_not (by simp [Cell.waits, Cell.dropHold, hd])]
    simp [Cell.dropHold, LoadError.counted, hst]
  rw [back]
  refine ⟨by simp, ?_, ?_, ?_⟩
  · simpa using gone.loads
  · simpa using gone.portion
  · simpa [State.hasEntry] using gone.entry

/-- Settles O30: `removes_exactly` turns each clause into one about `removePause`, whose cases are the lemmas above. -/
theorem removedReasonsResumeTheCell : Obligations.RemovedReasonsResumeTheCell := by
  unfold Obligations.RemovedReasonsResumeTheCell
  intro s u c r command done hwait hcom
  have hrem : Removes s u c r command done := hcom
  have exactly := removes_exactly hrem
  refine ⟨fun h => ?_, fun h hs => ?_, fun x h he hs hx => ?_, fun x h he hs hr ht hx => ?_, fun x w h he hs hr ht hw hx => ?_,
    fun x ref l p st h he hs hr hw hx => ⟨fun hk => ?_, fun hk hg => ?_, fun v hk hv hg => ⟨fun e hent ha => ?_, ?_⟩⟩⟩
  · exact exactly (fun v => v) (fun v hv => removePause_absent (by rw [hv.cell, h])) rfl
  · exact exactly (modCell c fun x => { x with pause := x.pause.drop r })
      (fun v hv => removePause_only (by rw [hv.cell, h]) (by rw [hv.cell]; exact hs)) rfl
  · refine exactly (fun v => setWaiting c x.waits (v.setCell c x)) (fun v hv => ?_) rfl
    rw [← hv.cell] at h he hs hx
    exact removePause_idle h he hs (hv.waitList.trans hwait) hx
  · refine exactly (fun v => setWaiting c x.waits
      (raise (.cellState c .paused .running PauseSet.empty x.fault) ((sendFrame c .resume v).setCell c x))) (fun v hv => ?_) ?_
    · rw [← hv.cell] at h he hs hr ht hx
      exact removePause_resumed h he hs hr ht (hv.waitList.trans hwait) hx
    · simp only [proved_sendFrame, proved_setCell, proved_raise, proved_setWaiting]
  · obtain ⟨ref, l, p, st⟩ := w
    refine exactly (fun v => raise (.cellState c .paused .soaking PauseSet.empty x.fault)
      ((sendFrame c (.soak st.tempClass) v).setCell c x)) (fun v hv => ?_) ?_
    · rw [← hv.cell] at h he hs hr ht hx
      exact removePause_soaks h he hs hr ht ((hv.currentWork c).trans hw) hx
    · simp only [proved_sendFrame, proved_setCell, proved_raise]
  all_goals
    have hxs : x.state = .paused := by rw [hx, hs]
    have hxp : x.pause.isEmpty := by rw [hx]; rfl
    have hxk : x.kit = (s.cell c).kit := by rw [hx]
    have hxg : x.program = (s.cell c).program := by rw [hx]
    have checks (v : State) (hv : Handed s v) : removePause offerRound c r v = setupCheck offerRound c (v.setCell c x)
        ∧ (v.setCell c x).currentWork c = some (ref, l, p, st) := by
      rw [← hv.cell] at h he hs hr hx
      refine ⟨removePause_setup h he hs hr hx, ?_⟩
      rw [← hw, ← hv.currentWork]
      exact currentWork_congr (by simp [hx]) rfl rfl
  · refine exactly (fun v => raise (.changeover c l.id p.number st.kit x.kit)
      (raise (.cellState c .paused .reserved x.pause x.fault) (v.setCell c { x with state := .reserved }))) (fun v hv => ?_) ?_
    · obtain ⟨hset, hwork⟩ := checks v hv
      rw [hset, setupCheck_kit hwork (by simpa [hxk] using hk), setCellState_setCell (by simp [hxs]), hxs, setCell_cell_self]
    · simp only [proved_setCell, proved_raise]
  · refine exactly (fun v => raise (.cellState c .paused .soaking x.pause x.fault) ((sendFrame c (.soak st.tempClass) v).setCell c
      { x with state := .soaking, soakTimer := some st.soakTimeout, dwellTimer := none })) (fun v hv => ?_) ?_
    · obtain ⟨hset, hwork⟩ := checks v hv
      rw [hset, setupCheck_fits hwork (by simpa [hxk] using hk), setupFromPause_loaded hwork (by simpa using hxp) (by simpa [hxg] using hg),
        enterSoaking_eq hwork (by simp [hxs]), sendFrame_setCell _ _ _ _ _ (by rw [hx, hv.cell]), setCell_setCell]
      simp [hxs]
    · simp only [proved_sendFrame, proved_setCell, proved_raise]
  · obtain ⟨v', t, hv', hex, hcells, hloads, hlots, hcat, hwl⟩ := removes_to hrem
    obtain ⟨hset, hwork⟩ := checks v' hv'
    have frame := setupFromPause_loading (rnd := offerRound) hwork (by simpa using hxp) hv (by simpa [hxg] using hg)
      ((hv'.entry _ _).trans hent) ha (by simp [hxs])
    rw [← setupCheck_fits hwork (by simpa [hxk] using hk), ← hset] at frame
    have htl (d : CellId) : t.load d = (removePause offerRound c r v').load d := by unfold State.load; rw [hloads]
    have htc (d : CellId) : t.cell d = (removePause offerRound c r v').cell d := by unfold State.cell; rw [hcells]
    refine ⟨t, hex, ?_⟩
    rw [htl, htc, hlots, hcat, hwl, frame.cell, frame.load_state, frame.load_program, frame.load_length, frame.lots, frame.catalog,
      frame.waitList]
    simp [startedLoad, hv'.lots, hv'.catalog, hv'.waitList]
  · intro hna hq hd hf hr0 hns
    obtain ⟨v', t, hv', hex, hcells, hloads, hlots, -, hwl⟩ := removes_to hrem
    obtain ⟨hset, hwork⟩ := checks v' hv'
    obtain ⟨href, hlot, hportion, -⟩ := currentWork_some hw
    generalize hm : raise (.cellState c x.state .loading x.pause x.fault) (v'.setCell c { x with state := .loading }) = m
    have hmc : m.cell c = { x with state := .loading } := by rw [← hm]; simp
    have hml : m.lot ref.lot = some l := by rw [← hm, ← hlot]; simpa using hv'.lot ref.lot
    have refused := startLoad_refused (c := c) (p := ⟨st.program, v⟩) (s := m)
      (by rw [← hna, ← hv'.approved, ← hm]; simp [State.approved, State.entry]) rfl
    have back := loadFailed_suspended (c := c) (s := (startLoad c ⟨st.program, v⟩ m).1) (by rw [refused]; simp [hmc])
      (by rw [refused]; simp [hmc, hx, href]) (by rw [refused]; simpa using hml) hportion hns hr0
      (by rw [refused, ← hm]; intro d; simpa [hv'.waiting] using hq d) (by rw [refused]; simpa [hmc, hx] using hd)
      (by rw [refused]; simpa [hmc, hx] using hf)
    have hload : removePause offerRound c r v' = loadFailed offerRound c .suspended (startLoad c ⟨st.program, v⟩ m).1 := by
      rw [hset, setupCheck_fits hwork (by simpa [hxk] using hk), setupFromPause_load hwork (by simpa using hxp) hv
        (by simpa [hxg] using hg), setCellState_setCell (by simp [hxs]), hm, refused]
      rfl
    rw [← hload] at back
    obtain ⟨bcell, bloads, bportion, bentry⟩ := back
    have htl (d : CellId) : t.load d = (startLoad c ⟨st.program, v⟩ m).1.load d := by unfold State.load; rw [hloads, bloads]
    refine ⟨t, hex, ?_, ?_, ?_, ?_, ?_⟩
    · rw [htl, refused]; simp
    · rw [htl, refused]; simp
    · have : t.cell c = (removePause offerRound c r v').cell c := by unfold State.cell; rw [hcells]
      rw [this, bcell, refused]
      simp [hmc, Cell.dropHold, hx, PauseSet.drop, PauseSet.empty]
    · rw [← bportion]; unfold State.lot; rw [hlots]
    · rw [← bentry]; unfold State.hasEntry; rw [hwl]

end Sys2Proof.CellProofs
end

section
namespace Sys2Proof.CellProofs

open Sys2Proof Sys2Proof.Machine

/-! ### What a setup check touches (R49) -/

theorem sendFrame_port_other {c d : CellId} (f : PartFrame) (s : State) (h : d ≠ c) : (sendFrame c f s).port d = s.port d := by
  unfold sendFrame
  split
  · split
    · rw [modPort_port, if_neg (Ne.symm h)]
    · split
      · rw [modPort_port, if_neg (Ne.symm h)]
      · rw [raise_port]
  · rfl

/-- A setup check changes its own cell and port, the loads and the buffer pool, and the reports. -/
structure SetupFrame (c : CellId) (s t : State) : Prop where
  rest : t = { s with
    cells := t.cells, ports := t.ports, host := t.host, loads := t.loads, bufferWaiting := t.bufferWaiting
    grantPointer := t.grantPointer, buffers := t.buffers }
  cell : ∀ d, d ≠ c → t.cell d = s.cell d
  port : ∀ d, d ≠ c → t.port d = s.port d

namespace SetupFrame

variable {c : CellId} {s t u : State}

theorem refl (c : CellId) (s : State) : SetupFrame c s s := ⟨rfl, fun _ _ => rfl, fun _ _ => rfl⟩

theorem trans (h : SetupFrame c s t) (k : SetupFrame c t u) : SetupFrame c s u :=
  ⟨k.rest.trans (by rw [h.rest]), fun d hd => (k.cell d hd).trans (h.cell d hd), fun d hd => (k.port d hd).trans (h.port d hd)⟩

theorem raise (h : SetupFrame c s t) (r : Report) : SetupFrame c s (raise r t) :=
  h.trans ⟨by rw [raise_eq], fun d _ => by rw [raise_cell], fun d _ => by rw [raise_port]⟩

theorem setCell (h : SetupFrame c s t) (x : Cell) : SetupFrame c s (t.setCell c x) :=
  h.trans ⟨rfl, fun d hd => by rw [setCell_cell, if_neg (Ne.symm hd)], fun _ _ => rfl⟩

theorem sendFrame (h : SetupFrame c s t) (f : PartFrame) : SetupFrame c s (sendFrame c f t) :=
  h.trans ⟨by rw [sendFrame_rest], fun d _ => sendFrame_cell .., fun d hd => sendFrame_port_other f t hd⟩

theorem modLoad (h : SetupFrame c s t) (d : CellId) (f : Load → Load) : SetupFrame c s (modLoad d f t) :=
  h.trans ⟨rfl, fun _ _ => rfl, fun _ _ => rfl⟩

theorem granted (h : SetupFrame c s t) (k : GrantFrame t u) : SetupFrame c s u :=
  h.trans ⟨by rw [k.rest], fun d _ => k.cell d, fun d _ => by unfold State.port; rw [k.ports]⟩

end SetupFrame

end Sys2Proof.CellProofs
end

section
namespace Sys2Proof.CellProofs

open Sys2Proof Sys2Proof.Machine

/-! ### The round (R79) -/

theorem cyclicFrom_nodup (p : CellId) : (cyclicFrom p).Nodup := by
  refine List.Nodup.map (fun a b h => ?_) (List.nodup_finRange 16)
  exact add_left_cancel h

theorem mem_cyclicFrom (p c : CellId) : c ∈ cyclicFrom p :=
  List.mem_map.mpr ⟨c - p, List.mem_finRange _, by simp⟩

/-- A fold whose every step but one leaves every state alone is that step. -/
theorem foldl_at {α : Type} (f : State → α → State) (s : State) (l : List α) (c : α) (hn : l.Nodup) (hc : c ∈ l)
    (h : ∀ t a, a ≠ c → f t a = t) : l.foldl f s = f s c := by
  induction l with
  | nil => cases hc
  | cons a l ih =>
    obtain ⟨ha, hl⟩ := List.nodup_cons.mp hn
    rw [List.foldl_cons]
    by_cases hac : a = c
    · subst hac
      have stays : ∀ (l : List α) (t : State), a ∉ l → l.foldl f t = t := by
        intro l
        induction l with
        | nil => exact fun _ _ => rfl
        | cons b l ih =>
          intro t hb
          rw [List.foldl_cons, h t b (fun e => hb (by simp [e])), ih t (fun m => hb (List.mem_cons_of_mem _ m))]
      exact stays l _ ha
    · rw [h s a hac, ih hl ((List.mem_cons.mp hc).resolve_left (Ne.symm hac))]

/-- While one cell waits, a round is one offer to it (R79). -/
theorem offerRound_one {s : State} {c : CellId} (hc : s.waiting.get c) (ho : ∀ d, d ≠ c → s.waiting.get d = false) :
    offerRound s = offer id c s := by
  unfold offerRound offerRoundWith
  rw [foldl_at _ _ _ c (cyclicFrom_nodup _) (mem_cyclicFrom _ _) fun t a ha => by simp [ho a ha]]
  simp [hc]

/-! ### The winner (R75, R76) -/

theorem winner_candidate {s : State} {c : CellId} {w : WaitEntry} (h : winner s c = some w) : candidate s c w = true := by
  have band : ∀ e ∈ bandCandidates s c, candidate s c e = true := by
    intro e he
    unfold bandCandidates at he
    split at he
    · cases he
    · next x xs hf =>
      have hmem : e ∈ s.waitList.filter (candidate s c) := by
        rw [hf]
        rcases List.mem_cons.mp he with rfl | he
        · exact List.mem_cons_self
        · exact List.mem_cons_of_mem _ (List.mem_filter.mp he).1
      exact (List.mem_filter.mp hmem).2
  apply band
  unfold winner at h
  dsimp only at h
  split at h
  · next e he => cases h; exact List.mem_of_find?_eq_some he
  · split at h
    · next e he => cases h; exact List.mem_of_find?_eq_some he
    · exact List.mem_of_head? h

/-- A candidate's step has its program in the catalog, APPROVED (R75, condition 2). -/
theorem candidate_approved {s : State} {c : CellId} {w : WaitEntry} {l : Lot} {st : StepRec} (h : candidate s c w = true)
    (hl : s.lot w.lot = some l) (hst : s.stepOf l = some st) : s.approved st.program st.revision = true := by
  unfold candidate State.eligible at h
  rw [hl] at h
  dsimp only at h
  rw [hst] at h
  simp only [Bool.and_eq_true] at h
  exact h.1.1.2

theorem approved_entry {s : State} {n : Text} {r : Nat} (h : s.approved n r = true) :
    ∃ e, s.entry n r = some e ∧ e.state = .approved := by
  unfold State.approved at h
  split at h
  · next e he => exact ⟨e, he, by simpa using h⟩
  · cases h

/-! ### The placement (R48, R77) -/

/-- A slot filled: the cell's record, its waiting mark gone, and the portion under its revision (R48, R77). -/
def slotFilled (c : CellId) (x : Cell) (ref : PortionRef) (st : PortionState) (r : Nat) (s : State) : State :=
  refreshLot ref.lot (modPortion ref (recordRevision st r) (setWaiting c false (s.setCell c x)))

/-- The skip counts and the pointer moved after a placement (R77, R78). -/
def listMoved (c : CellId) (w : WaitEntry) (passed : List LotSlot) (s : State) : State :=
  { s with waitList := bumpSkips passed w.lot s.waitList, pointer := c + 1 }

/-- A placement before the setup check: the slot filled, the list and the pointer moved, an entry without QUEUED portions gone (R77). -/
def placedIn (c : CellId) (w : WaitEntry) (x : Cell) (p : Portion) (st : PortionState) (r : Nat) (s : State) : State :=
  let m := listMoved c w (passedOver s c w) (slotFilled c x ⟨w.lot, p.number⟩ st r s)
  if (m.lot w.lot).all (·.queuedPortions.isEmpty) then removeEntry w.lot m else m

/-- A placement on a RUNNING cell fills its pending slot (R48, R77). -/
theorem place_running {rnd : Round} {c : CellId} {w : WaitEntry} {p : Portion} {r : Nat} {s : State} (h : (s.cell c).state ≠ .idle) :
    place rnd c w p r s = placedIn c w { s.cell c with pendingSlot := some ⟨w.lot, p.number⟩ } p (.pending c) r s := by
  unfold place placedIn listMoved slotFilled
  simp only [if_neg h]
  rw [modCell_eq]
  refine ite_congr ?_ (fun _ => rfl) fun _ => rfl
  generalize State.lot _ w.lot = o
  cases o <;> rfl

/-- A placement on an IDLE cell fills its current slot and makes its setup check (R48, R49, R77). -/
theorem place_idle {rnd : Round} {c : CellId} {w : WaitEntry} {p : Portion} {r : Nat} {s : State} (h : (s.cell c).state = .idle) :
    place rnd c w p r s = setupCheck rnd c (setCellState c .reserved
      (placedIn c w { s.cell c with current := some ⟨w.lot, p.number⟩, cleared := false } p (.atCell c) r s)) := by
  unfold place placedIn listMoved slotFilled
  simp only [if_pos h]
  rw [modCell_eq]
  refine congrArg (fun t => setupCheck rnd c (setCellState c .reserved t)) (ite_congr ?_ (fun _ => rfl) fun _ => rfl)
  generalize State.lot _ w.lot = o
  cases o <;> rfl

/-- A portion found by its number in a lot without two of one number. -/
theorem portion_of_mem {l : Lot} {p : Portion} (hn : (l.portions.map (·.number)).Nodup) (hp : p ∈ l.portions) :
    l.portion p.number = some p := by
  unfold Lot.portion
  cases h : l.portions.find? fun q => decide (q.number = p.number) with
  | none => simpa using List.find?_eq_none.mp h p hp
  | some q =>
    have hq : q.number = p.number := by simpa using List.find?_some h
    rw [List.inj_on_of_nodup_map hn (List.mem_of_find?_eq_some h) hp hq]

/-- Once a QUEUED portion is placed the lot has one QUEUED portion fewer (R77). -/
theorem queued_of_placed {l : Lot} {p : Portion} {st : PortionState} {r : Nat} (hn : (l.portions.map (·.number)).Nodup)
    (hp : p ∈ l.portions) (hq : p.state = .queued) (hst : st ≠ .queued) :
    (l.modPortion p.number (recordRevision st r)).queuedPortions.length + 1 = l.queuedPortions.length := by
  unfold Lot.queuedPortions Lot.modPortion
  dsimp only
  obtain ⟨as, bs, hl⟩ := List.append_of_mem hp
  have apart : ∀ q ∈ as ++ bs, q.number ≠ p.number := by
    intro q hq e
    rw [hl] at hn
    simp only [List.map_append, List.map_cons, List.nodup_append, List.nodup_cons] at hn
    rcases List.mem_append.mp hq with h | h
    · exact hn.2.2 _ (List.mem_map_of_mem h) _ List.mem_cons_self e
    · exact hn.2.1.1 (e ▸ List.mem_map_of_mem h)
  have same (l : List Portion) (h : ∀ q ∈ l, q.number ≠ p.number) :
      l.map (fun q => if q.number = p.number then recordRevision st r q else q) = l :=
    (List.map_congr_left fun q hq => if_neg (h q hq)).trans (List.map_id _)
  rw [hl, List.map_append, List.map_cons, same as fun q h => apart q (List.mem_append_left _ h),
    same bs fun q h => apart q (List.mem_append_right _ h)]
  simp [recordRevision, hst, hq]
  omega

section

variable {c : CellId} {w : WaitEntry} {x : Cell} {p : Portion} {st : PortionState} {r : Nat} {s : State} {l : Lot}

/-- The lot a placement leaves: the portion under its revision, the state recomputed (R20, R77). -/
def placedLot (c : CellId) (w : WaitEntry) (x : Cell) (p : Portion) (st : PortionState) (r : Nat) (s : State) (l : Lot) : Lot :=
  refreshed (modPortion ⟨w.lot, p.number⟩ (recordRevision st r) (setWaiting c false (s.setCell c x))) w.lot
    (l.modPortion p.number (recordRevision st r))

theorem slotFilled_lot (hl : s.lot w.lot = some l) (y : LotSlot) :
    (slotFilled c x ⟨w.lot, p.number⟩ st r s).lot y = if w.lot = y then some (placedLot c w x p st r s l) else s.lot y := by
  have hm (y : LotSlot) := modPortion_lot (ref := ⟨w.lot, p.number⟩) (f := recordRevision st r)
    (s := setWaiting c false (s.setCell c x)) (l := l) hl y
  unfold slotFilled placedLot
  rw [refreshLot_lot (by rw [hm, if_pos rfl]), hm]
  split <;> rfl

/-- What a placement leaves of the records before the setup check (R48, R77). -/
theorem placedIn_rest : ∃ lots ships host waitList, placedIn c w x p st r s = { s with
    cells := s.cells.set c.val x c.isLt, waiting := s.waiting.set c.val false c.isLt, pointer := c + 1
    lots := lots, ships := ships, host := host, waitList := waitList } := by
  have frame : LotFrame (setWaiting c false (s.setCell c x)) (slotFilled c x ⟨w.lot, p.number⟩ st r s) :=
    ((LotFrame.refl _).modPortion _ _).refreshLot _
  unfold placedIn listMoved
  rw [frame.rest]
  dsimp only
  split <;> exact ⟨_, _, _, _, rfl⟩

theorem placedIn_lot (hl : s.lot w.lot = some l) (y : LotSlot) :
    (placedIn c w x p st r s).lot y = if w.lot = y then some (placedLot c w x p st r s l) else s.lot y := by
  rw [← slotFilled_lot hl]
  unfold placedIn
  dsimp only
  split <;> rfl

/-- The list after a placement: skip counts as R78 says, and the entry gone with its last QUEUED portion (R77, R78). -/
theorem placedIn_waitList (hl : s.lot w.lot = some l) (hn : (l.portions.map (·.number)).Nodup) (hp : l.queuedPortions.head? = some p)
    (hst : st ≠ .queued) : (placedIn c w x p st r s).waitList = (if (l.portions.filter fun p => p.state = .queued).length = 1
      then (bumpSkips (passedOver s c w) w.lot s.waitList).filter fun e => e.lot ≠ w.lot
      else bumpSkips (passedOver s c w) w.lot s.waitList) := by
  have frame : LotFrame (setWaiting c false (s.setCell c x)) (slotFilled c x ⟨w.lot, p.number⟩ st r s) :=
    ((LotFrame.refl _).modPortion _ _).refreshLot _
  have hmem : p ∈ l.portions ∧ p.state = .queued := by simpa [Lot.queuedPortions] using List.mem_of_head? hp
  have fewer := queued_of_placed (r := r) hn hmem.1 hmem.2 hst
  have last : ((listMoved c w (passedOver s c w) (slotFilled c x ⟨w.lot, p.number⟩ st r s)).lot w.lot).all (·.queuedPortions.isEmpty) = true
      ↔ (l.portions.filter fun p => p.state = .queued).length = 1 := by
    have hm : (listMoved c w (passedOver s c w) (slotFilled c x ⟨w.lot, p.number⟩ st r s)).lot w.lot
        = some (placedLot c w x p st r s l) := (slotFilled_lot hl w.lot).trans (if_pos rfl)
    rw [hm, Option.all_some, List.isEmpty_iff_length_eq_zero]
    change (l.modPortion p.number (recordRevision st r)).queuedPortions.length = 0 ↔ l.queuedPortions.length = 1
    omega
  unfold placedIn
  dsimp only
  by_cases h : (l.portions.filter fun p => p.state = .queued).length = 1
  · rw [if_pos (last.mpr h), if_pos h]
    unfold removeEntry listMoved
    rw [frame.waitList]
    rfl
  · rw [if_neg (fun e => h (last.mp e)), if_neg h]
    unfold listMoved
    rw [frame.waitList]
    rfl

/-- The placed portion is ACTIVE work of its lot, unless the lot's state was set directly (R20). -/
theorem placedLot_state (hp : l.queuedPortions.head? = some p) (hst : st ≠ .queued) (hd : st ≠ .done) (hl : l.state.direct = false)
    (hr : l.route = .stepOpen) : (placedLot c w x p st r s l).state = .active := by
  have hmem : p ∈ l.portions := by
    have : p ∈ l.portions ∧ p.state = .queued := by simpa [Lot.queuedPortions] using List.mem_of_head? hp
    exact this.1
  have any : (l.modPortion p.number (recordRevision st r)).portions.any Portion.placed = true := by
    refine List.any_eq_true.mpr ⟨recordRevision st r p, List.mem_map.mpr ⟨p, hmem, by simp⟩, ?_⟩
    cases st <;> simp_all [Portion.placed, recordRevision]
  unfold placedLot refreshed
  have hdirect : (l.modPortion p.number (recordRevision st r)).state.direct = false := hl
  have hroute : (l.modPortion p.number (recordRevision st r)).route = .stepOpen := hr
  simp [hdirect, Lot.derived, hroute, any]

end

/-! ### The setup check of a RESERVED cell (R49) -/

section

variable {c : CellId} {z : State} {ref : PortionRef} {l : Lot} {p : Portion} {st : StepRec} {v : Nat} {e : CatEntry}
  (hw : z.currentWork c = some (ref, l, p, st)) (hs : (z.cell c).state = .reserved)

include hw hs

theorem reserved_other_kit (hk : (z.cell c).kit ≠ some st.kit) :
    setupCheck id c z = raise (.changeover c l.id p.number st.kit (z.cell c).kit) z := by
  rw [setupCheck_kit hw hk, setCellState_same hs]

theorem reserved_paused (hk : (z.cell c).kit = some st.kit) (hp : (z.cell c).pause.isEmpty = false) :
    setupCheck id c z = raise (.cellState c .reserved .paused (z.cell c).pause (z.cell c).fault)
      (z.setCell c { z.cell c with state := .paused }) := by
  rw [setupCheck_fits hw hk, setupFromPause_paused hw hp, setCellState_ne (by simp [hs]), hs]

theorem reserved_soaks (hk : (z.cell c).kit = some st.kit) (hp : (z.cell c).pause.isEmpty)
    (hg : (z.cell c).program = p.revision.map fun r => ⟨st.program, r⟩) :
    setupCheck id c z = raise (.cellState c .reserved .soaking (z.cell c).pause (z.cell c).fault)
      ((sendFrame c (.soak st.tempClass) z).setCell c
        { z.cell c with state := .soaking, soakTimer := some st.soakTimeout, dwellTimer := none }) := by
  rw [setupCheck_fits hw hk, setupFromPause_loaded hw hp hg, enterSoaking_eq hw (by simp [hs]), hs]

theorem reserved_loads (hk : (z.cell c).kit = some st.kit) (hp : (z.cell c).pause.isEmpty) (hv : p.revision = some v)
    (hg : (z.cell c).program ≠ some ⟨st.program, v⟩) (he : z.entry st.program v = some e) (ha : e.state = .approved) :
    GrantFrame (modLoad c (fun _ => startedLoad ⟨st.program, v⟩ e)
      (raise (.cellState c .reserved .loading (z.cell c).pause (z.cell c).fault) (z.setCell c { z.cell c with state := .loading })))
      (setupCheck id c z) := by
  rw [setupCheck_fits hw hk, ← hs]
  exact setupFromPause_loading hw hp hv hg he ha (by simp [hs])

/-- A setup check of a usable revision keeps to its own cell, its port, the loads and the buffer pool (R49). -/
theorem reserved_frame (hv : p.revision = some v) (he : z.entry st.program v = some e) (ha : e.state = .approved) :
    SetupFrame c z (setupCheck id c z) := by
  have start := SetupFrame.refl c z
  by_cases hk : (z.cell c).kit = some st.kit
  · by_cases hp : (z.cell c).pause.isEmpty = true
    · by_cases hg : (z.cell c).program = p.revision.map fun r => ⟨st.program, r⟩
      · rw [reserved_soaks hw hs hk hp hg]
        exact ((start.sendFrame _).setCell _).raise _
      · exact (((start.setCell _).raise _).modLoad _ _).granted (reserved_loads hw hs hk hp hv (by simpa [hv] using hg) he ha)
    · rw [reserved_paused hw hs hk (Bool.eq_false_of_not_eq_true hp)]
      exact (start.setCell _).raise _
  · rw [reserved_other_kit hw hs hk]
    exact start.raise _

end

/-- The rest of the part after a placement, whatever its setup check has done to its own cell (R77, R78). -/
theorem placement_leaves {c : CellId} {w : WaitEntry} {x : Cell} {p : Portion} {st : PortionState} {r : Nat} {s t : State} {l : Lot}
    (hl : s.lot w.lot = some l) (hn : (l.portions.map (·.number)).Nodup) (hp : l.queuedPortions.head? = some p)
    (hst : st ≠ .queued) (hd : st ≠ .done) (ht : SetupFrame c (placedIn c w x p st r s) t) :
    t.waiting.get c = false ∧ (∀ d, d ≠ c → t.waiting.get d = s.waiting.get d ∧ t.cell d = s.cell d ∧ t.port d = s.port d)
    ∧ t.pointer = c + 1
    ∧ t.waitList = (if (l.portions.filter fun p => p.state = .queued).length = 1
      then (bumpSkips (passedOver s c w) w.lot s.waitList).filter fun e => e.lot ≠ w.lot
      else bumpSkips (passedOver s c w) w.lot s.waitList)
    ∧ (∀ y, y ≠ w.lot → t.lot y = s.lot y) ∧ t.tallies = s.tallies ∧ t.catalog = s.catalog ∧ t.products = s.products
    ∧ ∃ l', t.lot w.lot = some l' ∧ l'.holds = l.holds ∧ l'.route = l.route ∧ l'.stepIndex = l.stepIndex
      ∧ (∀ n, n ≠ p.number → l'.portion n = l.portion n) ∧ (l.state.direct = false → l.route = .stepOpen → l'.state = .active)
      ∧ l'.portion p.number = some (recordRevision st r p) := by
  have hlist := placedIn_waitList (c := c) (x := x) (r := r) (s := s) hl hn hp hst
  have hlot := placedIn_lot (c := c) (x := x) (p := p) (st := st) (r := r) hl
  obtain ⟨lots, ships, host, wl, hm⟩ := placedIn_rest (c := c) (w := w) (x := x) (p := p) (st := st) (r := r) (s := s)
  generalize placedIn c w x p st r s = m at *
  have hmem : p ∈ l.portions ∧ p.state = .queued := by simpa [Lot.queuedPortions] using List.mem_of_head? hp
  have htl (y : LotSlot) : t.lot y = m.lot y := by unfold State.lot; rw [ht.rest]
  have hwait : t.waiting = s.waiting.set c.val false c.isLt := by rw [ht.rest, hm]
  refine ⟨?_, fun d hd => ⟨?_, ?_, ?_⟩, ?_, ?_, fun y hy => ?_, ?_, ?_, ?_, placedLot c w x p st r s l, ?_, rfl, rfl, rfl, fun n hn => ?_,
    placedLot_state hp hst hd, ?_⟩
  · rw [hwait]; exact get_set_same _ _ _
  · rw [hwait]; exact get_set_other _ _ _ _ (Ne.symm hd)
  · rw [ht.cell d hd, hm]; exact get_set_other _ _ _ _ (Ne.symm hd)
  · rw [ht.port d hd, hm]; rfl
  · rw [ht.rest, hm]
  · rw [← hlist, ht.rest]
  · rw [htl, hlot, if_neg (Ne.symm hy)]
  · rw [ht.rest, hm]
  · rw [ht.rest, hm]
  · rw [ht.rest, hm]
  · rw [htl, hlot, if_pos rfl]
  · exact portion_modPortion_other hn fun _ => rfl
  · exact portion_modPortion (portion_of_mem hn hmem.1) fun _ => rfl

/-- An offer that its cell takes is a placement of the winner's lowest-numbered QUEUED portion under its step's revision (R76, R77). -/
theorem offer_taken {rnd : Round} {c : CellId} {s : State} {w : WaitEntry} {l : Lot} {st : StepRec} {p : Portion}
    (hw : winner s c = some w) (hl : s.lot w.lot = some l) (hst : s.stepOf l = some st) (hp : l.queuedPortions.head? = some p)
    (ht : (s.cell c).takes) : offer rnd c s = place rnd c w p st.revision s := by
  unfold offer
  rw [hw]
  dsimp only
  rw [hl]
  dsimp only
  rw [hst, hp]
  dsimp only
  rw [if_pos ht]

/-- A cell that takes no placement leaves the offer as it is (R48). -/
theorem offer_refused {rnd : Round} {c : CellId} {s : State} (h : (s.cell c).takes = false) : offer rnd c s = s := by
  unfold offer
  split
  · rfl
  · split
    · rfl
    · split
      · rw [if_neg (by simp [h])]
      · rfl

theorem takes_iff (x : Cell) :
    x.takes = true ↔ x.state = .idle ∧ x.current = none ∨ x.state = .running ∧ x.pendingSlot = none := by
  simp [Cell.takes]

/-- The RESERVED cell that a placement on an IDLE cell leaves to the setup check, with its work (R49, R77). -/
theorem placed_reserved {c : CellId} {s z : State} {w : WaitEntry} {l : Lot} {st : StepRec} {p : Portion} {x : Cell}
    (hl : s.lot w.lot = some l) (hst : s.stepOf l = some st) (hp : l.portion p.number = some p)
    (hi : x.state = .idle) (hc : x.current = some ⟨w.lot, p.number⟩)
    (hz : z = setCellState c .reserved (placedIn c w x p (.atCell c) st.revision s)) :
    z.cell c = { x with state := .reserved } ∧ z.ports = s.ports ∧ z.loads = s.loads ∧ z.catalog = s.catalog
    ∧ z.currentWork c = some (⟨w.lot, p.number⟩, placedLot c w x p (.atCell c) st.revision s l, recordRevision (.atCell c) st.revision p, st)
    ∧ SetupFrame c (placedIn c w x p (.atCell c) st.revision s) z := by
  have hlot := placedIn_lot (c := c) (x := x) (p := p) (st := .atCell c) (r := st.revision) hl w.lot
  obtain ⟨lots, ships, host, wl, hm⟩ := placedIn_rest (c := c) (w := w) (x := x) (p := p) (st := .atCell c) (r := st.revision) (s := s)
  generalize placedIn c w x p (.atCell c) st.revision s = m at *
  have hmc : m.cell c = x := by rw [hm]; exact get_set_same _ _ _
  rw [setCellState_ne (by rw [hmc, hi]; simp), hmc] at hz
  subst hz
  refine ⟨by simp, by simp [hm], by simp [hm], by simp [hm], ?_, ((SetupFrame.refl c m).setCell _).raise _⟩
  have hportion : (placedLot c w x p (.atCell c) st.revision s l).portion p.number = some (recordRevision (.atCell c) st.revision p) :=
    portion_modPortion hp fun _ => rfl
  rw [if_pos rfl] at hlot
  refine currentWork_of (by rw [raise_cell, setCell_cell_self]; exact hc) (by rw [raise_lot, setCell_lot]; exact hlot) hportion ?_
  rw [← hst, hm, raise_eq]
  rfl

/-- Settles O46: the round is a fold of offers, an offer taken is `placedIn`, and the slot of an IDLE cell goes on to its setup check. -/
theorem placementsFillTheSlot : Obligations.PlacementsFillTheSlot := by
  unfold Obligations.PlacementsFillTheSlot
  intro s c
  refine ⟨offerRound_quiet, offerRound_one, rfl, by simp [cyclicFrom], fun n => by simp [cyclicFrom], fun h => by simp [offer, h],
    fun hi hr => offer_refused (Bool.eq_false_of_not_eq_true fun h => ((takes_iff _).mp h).elim hi hr), ?_⟩
  intro w l st p t ref q hw hl hst hp hn ht href hq
  subst ht href hq
  have hmem : p ∈ l.portions ∧ p.state = .queued := by simpa [Lot.queuedPortions] using List.mem_of_head? hp
  have running (hs : (s.cell c).state = .running) (hps : (s.cell c).pendingSlot = none) : offer id c s
      = placedIn c w { s.cell c with pendingSlot := some ⟨w.lot, p.number⟩ } p (.pending c) st.revision s := by
    rw [offer_taken hw hl hst hp ((takes_iff _).mpr (.inr ⟨hs, hps⟩)), place_running (by simp [hs])]
  have idle (hs : (s.cell c).state = .idle) (hcs : (s.cell c).current = none) : offer id c s = setupCheck id c (setCellState c .reserved
      (placedIn c w { s.cell c with current := some ⟨w.lot, p.number⟩, cleared := false } p (.atCell c) st.revision s)) := by
    rw [offer_taken hw hl hst hp ((takes_iff _).mpr (.inl ⟨hs, hcs⟩)), place_idle hs]
  obtain ⟨e, he, ha⟩ := approved_entry (candidate_approved (winner_candidate hw) hl hst)
  have ready (hs : (s.cell c).state = .idle) := placed_reserved (c := c) (z := _)
    (x := { s.cell c with current := some ⟨w.lot, p.number⟩, cleared := false }) hl hst (portion_of_mem hn hmem.1) hs rfl rfl
  refine ⟨fun h => ?_, fun hs hps => ?_, fun hs hcs x hx => ?_⟩
  · rcases h with ⟨hs, hcs⟩ | ⟨hs, hps⟩
    · obtain ⟨hzc, -, -, hzcat, hzw, hzf⟩ := ready hs
      rw [idle hs hcs, if_pos hs]
      exact placement_leaves (st := .atCell c) (r := st.revision) hl hn hp (by simp) (by simp)
        (hzf.trans (reserved_frame hzw (by rw [hzc]) rfl (by rw [← he]; unfold State.entry; rw [hzcat]) ha))
    · have hni : (s.cell c).state ≠ .idle := by simp [hs]
      rw [running hs hps, if_neg hni]
      exact placement_leaves (st := .pending c) (r := st.revision) hl hn hp (by simp) (by simp) (SetupFrame.refl _ _)
  · rw [running hs hps]
    obtain ⟨lots, ships, host, wl, hm⟩ := placedIn_rest (c := c) (w := w) (p := p) (st := .pending c) (r := st.revision) (s := s)
      (x := { s.cell c with pendingSlot := some ⟨w.lot, p.number⟩ })
    rw [hm]
    exact ⟨get_set_same _ _ _, rfl, rfl⟩
  · rw [idle hs hcs]
    obtain ⟨hzc, hzp, hzl, hzcat, hzw, -⟩ := ready hs
    rw [← hx] at hzc hzp hzl hzcat hzw ⊢
    generalize setCellState c .reserved (placedIn c w x p (.atCell c) st.revision s) = z at *
    have hzs : (z.cell c).state = .reserved := by rw [hzc]
    have hzk : (z.cell c).kit = (s.cell c).kit := by rw [hzc, hx]
    have hzpause : (z.cell c).pause = (s.cell c).pause := by rw [hzc, hx]
    have hzg : (z.cell c).program = (s.cell c).program := by rw [hzc, hx]
    refine ⟨fun hk => ?_, fun hk hpa => ?_, fun hk hpa hg => ?_, fun hk hpa hg => ?_⟩
    · rw [reserved_other_kit hzw hzs (hzk ▸ hk), raise_cell, raise_ports, raise_loads]
      exact ⟨hzc, hzp, hzl⟩
    · rw [reserved_paused hzw hzs (hzk ▸ hk) (hzpause ▸ hpa), raise_cell, raise_ports, raise_loads, setCell_cell_self, hzc]
      exact ⟨rfl, hzp, hzl⟩
    · rw [reserved_soaks hzw hzs (hzk ▸ hk) (hzpause ▸ hpa) (hzg ▸ hg), raise_cell, raise_loads, setCell_cell_self, hzc]
      exact ⟨rfl, (sendFrame_loads ..).trans hzl⟩
    · have frame := reserved_loads hzw hzs (hzk ▸ hk) (hzpause ▸ hpa) rfl (hzg ▸ hg)
        (by rw [← he]; unfold State.entry; rw [hzcat]) ha
      rw [frame.cell, frame.ports, frame.load_state, frame.load_program]
      simp [startedLoad, hzc, hzp]

end Sys2Proof.CellProofs
end

section
namespace Sys2Proof.CellProofs

open Sys2Proof Sys2Proof.Machine

/-! ### What a hold touches while its lot has no portion in a pending slot (R28, R29, R53) -/

/-- A hold changes the lots, the shipments, the check marks, the waiting-cell set and the reports; of the cells no more than the pause,
the state and the two timers a pause stops, of the ports no more than what they send. -/
structure HoldFrame (s t : State) : Prop where
  rest : t = { s with
    lots := t.lots, ships := t.ships, checkMarks := t.checkMarks, waiting := t.waiting, cells := t.cells, ports := t.ports
    host := t.host }
  cell : ∀ d, t.cell d = { s.cell d with
    pause := (t.cell d).pause, state := (t.cell d).state, soakTimer := (t.cell d).soakTimer, dwellTimer := (t.cell d).dwellTimer }
  port : ∀ d, t.port d = { s.port d with tx := (t.port d).tx, txList := (t.port d).txList }

namespace HoldFrame

variable {s t u : State}

theorem refl (s : State) : HoldFrame s s := ⟨rfl, fun _ => rfl, fun _ => rfl⟩

theorem trans (h : HoldFrame s t) (k : HoldFrame t u) : HoldFrame s u where
  rest := k.rest.trans (by rw [h.rest])
  cell d := by rw [k.cell, h.cell]
  port d := by rw [k.port, h.port]

theorem raise (h : HoldFrame s t) (r : Report) : HoldFrame s (raise r t) :=
  h.trans ⟨by rw [raise_eq], fun d => by rw [raise_cell], fun d => by rw [raise_port]⟩

theorem lotFrame (h : HoldFrame s t) (k : LotFrame t u) : HoldFrame s u :=
  h.trans ⟨by rw [k.rest], fun d => by rw [k.cell], fun d => by rw [k.port]⟩

theorem setCheckMark (h : HoldFrame s t) (x : LotSlot) (b : Bool) : HoldFrame s (setCheckMark x b t) :=
  h.trans ⟨rfl, fun _ => rfl, fun _ => rfl⟩

theorem setWaiting (h : HoldFrame s t) (c : CellId) (b : Bool) : HoldFrame s (setWaiting c b t) :=
  h.trans ⟨rfl, fun _ => rfl, fun _ => rfl⟩

theorem sendFrame (h : HoldFrame s t) (c : CellId) (f : PartFrame) : HoldFrame s (sendFrame c f t) := by
  refine h.trans ⟨by rw [sendFrame_rest], fun d => by rw [sendFrame_cell], fun d => ?_⟩
  obtain ⟨tx, l, e⟩ := sendFrame_port c f t d
  rw [e]

theorem setCell (h : HoldFrame s t) (c : CellId) {x : Cell}
    (hx : x = { t.cell c with pause := x.pause, state := x.state, soakTimer := x.soakTimer, dwellTimer := x.dwellTimer }) :
    HoldFrame s (t.setCell c x) := by
  refine h.trans ⟨rfl, fun d => ?_, fun _ => rfl⟩
  rw [setCell_cell]
  split
  · next e => subst e; exact hx
  · rfl

theorem addPause (h : HoldFrame s t) (c : CellId) (r : PauseReason) : HoldFrame s (addPause c r t) := by
  rw [addPause_eq]
  refine HoldFrame.setWaiting ?_ _ _
  unfold pausedCell
  split
  · exact HoldFrame.raise (HoldFrame.setCell (h.sendFrame c .pause) c (by rw [sendFrame_cell]; rfl)) _
  · exact HoldFrame.setCell h c rfl

theorem holdAdded (h : HoldFrame s t) (c : CellId) (ref : PortionRef) : HoldFrame s (holdAdded c ref t) := by
  unfold Machine.holdAdded
  split
  · exact h.addPause c .hold
  · exact h

theorem checkNote (h : HoldFrame s t) (x : LotSlot) (r : HoldReason) (p : RoutePos) : HoldFrame s (checkNote x r p t) := by
  unfold Machine.checkNote
  split
  · exact h.setCheckMark x true
  · exact h

theorem tallies (h : HoldFrame s t) : t.tallies = s.tallies := by rw [h.rest]
theorem runGroups (h : HoldFrame s t) : t.runGroups = s.runGroups := by rw [h.rest]
theorem catalog (h : HoldFrame s t) : t.catalog = s.catalog := by rw [h.rest]
theorem waitList (h : HoldFrame s t) : t.waitList = s.waitList := by rw [h.rest]

end HoldFrame

@[simp] theorem addPause_lots (c : CellId) (r : PauseReason) (s : State) : (addPause c r s).lots = s.lots := by
  rw [addPause_eq]
  unfold pausedCell
  split <;> simp

theorem holdAdded_lots (c : CellId) (ref : PortionRef) (s : State) : (holdAdded c ref s).lots = s.lots := by
  unfold holdAdded
  split <;> simp

/-- The holds of a lot pause its cells one after another; no lot changes (R29, R54). -/
theorem holdsAdded_frame (x : LotSlot) (as : List (CellId × Nat)) {s t : State} (h : HoldFrame s t) :
    HoldFrame s (as.foldl (fun s a => holdAdded a.1 ⟨x, a.2⟩ s) t)
    ∧ (as.foldl (fun s a => holdAdded a.1 ⟨x, a.2⟩ s) t).lots = t.lots := by
  induction as generalizing t with
  | nil => exact ⟨h, rfl⟩
  | cons a as ih =>
    obtain ⟨hf, hl⟩ := ih (h.holdAdded a.1 ⟨x, a.2⟩)
    exact ⟨hf, hl.trans (holdAdded_lots ..)⟩

/-- A first hold of a lot without pending portions pauses its cells, and its state is recomputed (R29). -/
theorem firstHold_frame {rnd : Round} {x : LotSlot} {s t : State} {l : Lot} (h : HoldFrame s t) (hl : t.lot x = some l)
    (hp : l.pendingCells = []) :
    HoldFrame s (firstHold rnd x t) ∧ ∀ y, (firstHold rnd x t).lot y =
      if x = y then some { l with state := ((firstHold rnd x t).lot x).elim l.state (·.state) } else t.lot y := by
  unfold firstHold
  rw [hl]
  dsimp only
  rw [hp, List.foldl_nil]
  obtain ⟨hf, hlots⟩ := holdsAdded_frame x l.atCells h
  generalize l.atCells.foldl (fun s a => holdAdded a.1 ⟨x, a.2⟩ s) t = u at *
  have hlot (y : LotSlot) : u.lot y = t.lot y := by unfold State.lot; rw [hlots]
  have hr := refreshLot_lot (s := u) (by rw [hlot, hl])
  refine ⟨hf.lotFrame ((LotFrame.refl _).refreshLot x), fun y => ?_⟩
  rw [hr, hr, if_pos rfl]
  split
  · rfl
  · exact hlot y

theorem heldFor_bump {l : Lot} {r : HoldReason} (h : l.heldFor r = true) : Lot.heldFor { l with holds := bumpHold r l.holds } r = true := by
  unfold Lot.heldFor bumpHold at *
  simp only [List.any_map]
  obtain ⟨a, ha, hr⟩ := List.any_eq_true.mp h
  have : a.reason = r := by simpa using hr
  exact List.any_eq_true.mpr ⟨a, ha, by simp [this]⟩

theorem checkNote_lot (x y : LotSlot) (r : HoldReason) (p : RoutePos) (s : State) : (checkNote x r p s).lot y = s.lot y := by
  unfold checkNote
  split <;> simp

/-- A hold event of a lot that is not in a directly set state and has no portion in a pending slot: its list holds a record of the reason,
its portions are as they were, and no other lot changes (R28, R29). -/
theorem mergeHold_raised {rnd : Round} {x : LotSlot} {r : HoldReason} {n d : Nat} {s : State} {l : Lot} (hl : s.lot x = some l)
    (hd : l.state.direct = false) (hp : l.pendingCells = []) :
    HoldFrame s (mergeHold rnd x r n d s) ∧ (∀ y, y ≠ x → (mergeHold rnd x r n d s).lot y = s.lot y)
    ∧ ∃ l', (mergeHold rnd x r n d s).lot x = some l' ∧ l'.heldFor r ∧ l'.route = l.route ∧ l'.portions = l.portions := by
  unfold mergeHold
  rw [hl]
  dsimp only
  rw [if_neg (by simp [hd])]
  by_cases hh : l.heldFor r = true
  · rw [if_pos hh]
    refine ⟨?_, fun y hy => ?_, _, ?_, heldFor_bump hh, rfl, rfl⟩
    · exact (((HoldFrame.refl s).lotFrame ((LotFrame.refl s).setLot _ _)).checkNote _ _ _).lotFrame ((LotFrame.refl _).lotChanged _)
    · rw [lotChanged_lot, checkNote_lot, setLot_lot, if_neg (Ne.symm hy)]
    · rw [lotChanged_lot, checkNote_lot, setLot_lot_self]
  · rw [if_neg hh]
    generalize hm : lotChanged x (raise (.holdRaised l.id r l.stepIndex n d) (checkNote x r l.route
      (s.setLot x (some { l with holds := l.holds ++ [⟨r, s.floorTime, 1, l.stepIndex, n, d⟩] })))) = m
    have frame : HoldFrame s m := by
      rw [← hm]
      exact HoldFrame.lotFrame (HoldFrame.raise (HoldFrame.checkNote
        ((HoldFrame.refl s).lotFrame ((LotFrame.refl s).setLot _ _)) _ _ _) _) ((LotFrame.refl _).lotChanged _)
    have hml (y : LotSlot) : m.lot y
        = if x = y then some { l with holds := l.holds ++ [⟨r, s.floorTime, 1, l.stepIndex, n, d⟩] } else s.lot y := by
      rw [← hm, lotChanged_lot, raise_lot, checkNote_lot, setLot_lot]
    have held (st : LotState) : Lot.heldFor { l with holds := l.holds ++ [⟨r, s.floorTime, 1, l.stepIndex, n, d⟩], state := st } r := by
      simp [Lot.heldFor]
    split
    · obtain ⟨hf, hfl⟩ := firstHold_frame (rnd := rnd) frame ((hml x).trans (if_pos rfl)) hp
      refine ⟨hf, fun y hy => ?_, _, (hfl x).trans (if_pos rfl), held _, rfl, rfl⟩
      rw [hfl, if_neg (Ne.symm hy), hml, if_neg (Ne.symm hy)]
    · exact ⟨frame, fun y hy => (hml y).trans (if_neg (Ne.symm hy)), _, (hml x).trans (if_pos rfl), held l.state, rfl, rfl⟩

/-- A hold event of a lot in a directly set state is discarded (R28). -/
theorem mergeHold_direct {rnd : Round} {x : LotSlot} {r : HoldReason} {n d : Nat} {s : State} {l : Lot} (hl : s.lot x = some l)
    (hd : l.state.direct = true) : mergeHold rnd x r n d s = s := by
  unfold mergeHold
  rw [hl]
  dsimp only
  rw [if_pos hd]

end Sys2Proof.CellProofs
end

section
namespace Sys2Proof.CellProofs

open Sys2Proof Sys2Proof.Machine

/-! ### RUN-END (R57, R120) -/

/-- The port and the portion once a RUN-END has been handed on: the partial group dropped, counted as damaged or not (R57). -/
def groupEnded (c : CellId) (ref : PortionRef) (damaged : Bool) (s : State) : State :=
  modPortion ref (fun p => if damaged then { p with damaged := satInc 255 p.damaged } else p)
    (modPort c (fun p => { p with heldRunEnd := none, group := [], groupCount := 0 }) s)

theorem modPortion_same (ref : PortionRef) (s : State) : modPortion ref (fun p => p) s = s := by
  have same : (fun l : Lot => l.modPortion ref.portion fun p => p) = id := by
    funext l
    simp [Lot.modPortion]
  unfold modPortion modLot State.setLot State.lot
  rw [same, Option.map_id, id, set_get_self]

@[simp] theorem modPortion_cell (ref : PortionRef) (f : Portion → Portion) (s : State) (c : CellId) :
    (modPortion ref f s).cell c = s.cell c := rfl
@[simp] theorem modPortion_port (ref : PortionRef) (f : Portion → Portion) (s : State) (c : CellId) :
    (modPortion ref f s).port c = s.port c := rfl

@[simp] theorem groupEnded_cell (c d : CellId) (ref : PortionRef) (b : Bool) (s : State) : (groupEnded c ref b s).cell d = s.cell d := rfl

/-- A partial group has been damaged unless it is empty or a setup one (R57). -/
def partialDamage (p : Port) : Bool := p.groupCount != 0 && !p.group.all IntakeRecord.isSetup

/-- A RUN-END that ends its cell's run: the group is closed, the compare made, and the cell goes on to its purge (R57, R120). -/
theorem runEndHanded_eq {rnd : Round} {c : CellId} {e : HeldRunEnd} {s g : State} {ref : PortionRef} (hends : (s.cell c).endsRun)
    (hc : (s.cell c).current = some ref) (hg : g = groupEnded c ref (partialDamage (s.port c)) s) :
    runEndHanded rnd c e s = updateWaiting rnd c (startPurge c (modCell c (fun x => { x with soakTimer := none, dwellTimer := none })
      (if e.tested.toNat ≠ (s.cell c).runTested || e.check ≠ (s.port c).resultCheck then
        mergeHold rnd ref.lot .check ref.portion 0 g else g))) := by
  have hgroup : (if (s.port c).groupCount = 0 || (s.port c).group.all IntakeRecord.isSetup then
      modPort c Port.dropGroup (modPort c (fun p => { p with heldRunEnd := none }) s)
      else damagedGroup c (modPort c Port.dropGroup (modPort c (fun p => { p with heldRunEnd := none }) s))) = g := by
    rw [hg, modPort_modPort]
    unfold groupEnded
    by_cases hd : partialDamage (s.port c) = true
    · have hn : ¬ ((s.port c).groupCount = 0 || (s.port c).group.all IntakeRecord.isSetup) = true := by
        simpa [partialDamage] using hd
      rw [if_neg hn, hd]
      unfold damagedGroup
      rw [modPort_cell, hc]
      rfl
    · have hn : ((s.port c).groupCount = 0 || (s.port c).group.all IntakeRecord.isSetup) = true := by
        simp [partialDamage] at hd
        simpa [Classical.or_iff_not_imp_left] using hd
      rw [if_pos hn, Bool.eq_false_of_not_eq_true hd]
      exact (modPortion_same ref _).symm
  have hcell : g.cell c = s.cell c := by rw [hg, groupEnded_cell]
  have hcheck : (g.port c).resultCheck = (s.port c).resultCheck := by rw [hg]; simp [groupEnded]
  unfold runEndHanded
  dsimp only
  rw [modPort_cell, if_pos hends, modPort_port_self]
  dsimp only
  rw [hgroup, hcell, hcheck, hc]

/-- Where the figures agree the cell of a run is sent PURGE and is PURGING with its timer at 600 s (R57). -/
theorem runEndHanded_agrees {rnd : Round} {c : CellId} {e : HeldRunEnd} {s g : State} {ref : PortionRef} {x : Cell}
    (hends : (s.cell c).endsRun) (hc : (s.cell c).current = some ref) (hg : g = groupEnded c ref (partialDamage (s.port c)) s)
    (ht : e.tested.toNat = (s.cell c).runTested) (hk : e.check = (s.port c).resultCheck)
    (hx : x = { s.cell c with soakTimer := none, dwellTimer := none, purgeTimer := some 600, state := .purging }) :
    runEndHanded rnd c e s = setWaiting c false (raise (.cellState c (s.cell c).state .purging x.pause x.fault)
      ((sendFrame c .purge g).setCell c x)) := by
  have hcell : g.cell c = s.cell c := by rw [hg, groupEnded_cell]
  have hnp : (s.cell c).state ≠ .purging := fun h => by simp [Cell.endsRun, Cell.inRun, h] at hends
  have agree : ¬ (e.tested.toNat ≠ (s.cell c).runTested || e.check ≠ (s.port c).resultCheck) = true := by simp [ht, hk]
  rw [runEndHanded_eq hends hc hg, if_neg agree, modCell_eq, hcell, startPurge_eq (by simpa using hnp), updateWaiting_not]
  · rw [setCell_cell_self, sendFrame_setCell _ _ _ _ _ (by rw [hcell]), setCell_setCell, hx]
  · exact waits_of_state (by simp) (by simp)

/-- The frame of PURGE touches the cells, the ports and the reports (R45). -/
theorem startPurge_rest (c : CellId) (s : State) :
    startPurge c s = { s with cells := (startPurge c s).cells, ports := (startPurge c s).ports, host := (startPurge c s).host } := by
  unfold startPurge setCellState
  rw [sendFrame_rest]
  split
  · rfl
  · rw [raise_eq]
    rfl

theorem startPurge_port (c : CellId) (s : State) (d : CellId) :
    ∃ tx l, (startPurge c s).port d = { s.port d with tx := tx, txList := l } := by
  obtain ⟨tx, l, h⟩ := sendFrame_port c .purge s d
  refine ⟨tx, l, ?_⟩
  unfold startPurge setCellState
  split
  · rw [modCell_port, h]
  · rw [raise_port, modCell_port, modCell_port, h]

/-- Where they disagree and the lot has no portion in a pending slot, its hold list holds a CHECK record as well (R57). -/
theorem runEndHanded_disagrees {rnd : Round} {c : CellId} {e : HeldRunEnd} {s g : State} {ref : PortionRef} {l : Lot}
    (hends : (s.cell c).endsRun) (hc : (s.cell c).current = some ref) (hg : g = groupEnded c ref (partialDamage (s.port c)) s)
    (hk : e.tested.toNat ≠ (s.cell c).runTested ∨ e.check ≠ (s.port c).resultCheck) (hl : g.lot ref.lot = some l)
    (hd : l.state.direct = false) (hp : l.pendingCells = []) :
    ∃ t l', runEndHanded rnd c e s = t ∧ (t.cell c).state = .purging ∧ (t.cell c).purgeTimer = some 600 ∧ t.waiting.get c = false
    ∧ (∃ tx list, t.port c = { g.port c with tx := tx, txList := list })
    ∧ (t.lot ref.lot = some l' ∧ l'.heldFor .check ∧ l'.route = l.route ∧ l'.portions = l.portions)
    ∧ (∀ y, y ≠ ref.lot → t.lot y = g.lot y) ∧ t.tallies = g.tallies ∧ t.catalog = g.catalog ∧ t.waitList = g.waitList := by
  obtain ⟨held, hother, l', hl', hheld, hroute, hportions⟩ := mergeHold_raised (rnd := rnd) (r := .check) (n := ref.portion) (d := 0) hl hd hp
  generalize hm : mergeHold rnd ref.lot .check ref.portion 0 g = m at held hother hl'
  have stopped : HoldFrame g (modCell c (fun x => { x with soakTimer := none, dwellTimer := none }) m) := by
    rw [modCell_eq]
    exact held.setCell c rfl
  have handed : runEndHanded rnd c e s = setWaiting c false
      (startPurge c (modCell c (fun x => { x with soakTimer := none, dwellTimer := none }) m)) := by
    rw [runEndHanded_eq hends hc hg, if_pos (by simpa using hk), hm, updateWaiting_not]
    rw [startPurge_cell]
    exact waits_of_state (by simp) (by simp)
  have lots (y : LotSlot) : (modCell c (fun x => { x with soakTimer := none, dwellTimer := none }) m).lot y = m.lot y := rfl
  generalize modCell c (fun x => { x with soakTimer := none, dwellTimer := none }) m = v at stopped handed lots
  have lot (y : LotSlot) : (startPurge c v).lot y = m.lot y := by
    rw [startPurge_rest]
    exact lots y
  obtain ⟨tx, list, hport⟩ := startPurge_port c v c
  rw [stopped.port] at hport
  refine ⟨_, l', handed, ?_, ?_, by simp [setWaiting_get], ⟨tx, list, hport⟩, ⟨(lot _).trans hl', hheld, hroute, hportions⟩,
    fun y hy => (lot y).trans (hother y hy), ?_, ?_, ?_⟩
  · rw [setWaiting_cell, startPurge_cell]
  · rw [setWaiting_cell, startPurge_cell]
  · rw [setWaiting_tallies, startPurge_rest]
    exact stopped.tallies
  · rw [setWaiting_catalog, startPurge_rest]
    exact stopped.catalog
  · rw [setWaiting_waitList, startPurge_rest]
    exact stopped.waitList

theorem pendingCells_modPortion (l : Lot) (n : Nat) {f : Portion → Portion} (hf : ∀ p, (f p).state = p.state) :
    (l.modPortion n f).pendingCells = l.pendingCells := by
  unfold Lot.pendingCells Lot.modPortion
  rw [List.filterMap_map]
  refine congrArg (List.filterMap · l.portions) (funext fun p => ?_)
  have same : (if p.number = n then f p else p).state = p.state := by
    split
    · exact hf p
    · rfl
  dsimp only [Function.comp]
  rw [same]

/-- The portions of a lot of which one has been counted as damaged, or not (R57). -/
theorem portions_modPortion_ite (l : Lot) (n : Nat) (b : Bool) (f : Portion → Portion) :
    (l.modPortion n fun p => if b then f p else p).portions
      = if b then l.portions.map (fun p => if p.number = n then f p else p) else l.portions := by
  unfold Lot.modPortion
  cases b <;> simp

/-- Settles O39: discarded, held behind the queue, or handed on, where the figures agree or a CHECK hold is raised. -/
theorem runEndClosesTheRun : Obligations.RunEndClosesTheRun := by
  unfold Obligations.RunEndClosesTheRun
  intro s c tested check hl
  have arrives : exec (.runEnd c tested check) s
      = .next (settleHost (runEndArrives offerRound c ⟨tested, check⟩ (s.heard c))) := congrArg Host.Outcome.next (stationFrame_up hl)
  have hport : (s.heard c).port c = { s.port c with rx := Receiver.between, silence := some 6 } := heard_port s c
  refine ⟨fun h => ?_, fun h hq => ?_, fun ref damaged h hq hc hd hst => ?_⟩
  · rw [arrives]
    unfold runEndArrives
    rw [hport, if_neg (by simp [h])]
  · rw [arrives]
    unfold runEndArrives
    rw [hport, if_pos (by exact h)]
    dsimp only
    rw [if_neg (by simpa using hq)]
  · generalize hm : modPort c (fun p => { p with
        runOpen := false, arrival := 0, heldRunEnd := some ⟨tested, check⟩, queue := markTail .endFollows p.queue }) (s.heard c) = m
    have handed : exec (.runEnd c tested check) s = .next (settleHost (runEndHanded offerRound c ⟨tested, check⟩ m)) := by
      rw [arrives, ← hm]
      unfold runEndArrives
      rw [hport, if_pos (by exact h)]
      dsimp only
      rw [if_pos (by simp [hq])]
    have hmc : m.cell c = s.cell c := by rw [← hm, modPort_cell, heard_cell]
    have hends : (m.cell c).endsRun := by
      rw [hmc]
      rcases hst with h | h | ⟨h | h, h'⟩ <;> simp [Cell.endsRun, Cell.inRun, h]
      all_goals exact h'
    have hmp : (m.port c).groupCount = (s.port c).groupCount ∧ (m.port c).group = (s.port c).group
        ∧ (m.port c).resultCheck = (s.port c).resultCheck := by rw [← hm]; simp [hport]
    obtain ⟨hcount, hgroup, hcheck⟩ := hmp
    have hdam : partialDamage (m.port c) = damaged := by
      rw [hd, partialDamage, hcount, hgroup]
      rfl
    have hg : groupEnded c ref (partialDamage (m.port c)) m = modPortion ref
        (fun p => if damaged then { p with damaged := satInc 255 p.damaged } else p) (modPort c (fun p => { p with
          runOpen := false, arrival := 0, heldRunEnd := none, group := [], groupCount := 0 }) (s.heard c)) := by
      rw [hdam, groupEnded, ← hm, modPort_modPort]
      refine congrArg _ (modPort_congr ?_)
      simp [hport, hq, markTail]
    refine ⟨fun ht hk x hx => ?_, fun l hdis hlot hdir hpc => ?_⟩
    · rw [handed, runEndHanded_agrees hends (hmc ▸ hc) hg.symm (hmc ▸ ht) (hcheck ▸ hk) (hmc ▸ hx), hmc]
    · generalize hgg : groupEnded c ref (partialDamage (m.port c)) m = g at hg
      have hgl (y : LotSlot) : g.lot y = if ref.lot = y then some (l.modPortion ref.portion fun p =>
          if damaged then { p with damaged := satInc 255 p.damaged } else p) else s.lot y := by
        rw [hg]
        exact modPortion_lot (s := modPort c _ (s.heard c)) hlot y
      have hgp : g.port c = { s.port c with
          rx := Receiver.between, silence := some 6, runOpen := false, arrival := 0, heldRunEnd := none, group := [], groupCount := 0 } := by
        rw [hg, modPortion_port, modPort_port_self, hport]
      obtain ⟨t, l', hend, hstate, htimer, hwaiting, ⟨tx, list, hp⟩, ⟨hl', hheld, hroute, hportions⟩, hother, htallies, hcatalog, hlist⟩ :=
        runEndHanded_disagrees (rnd := offerRound) (e := ⟨tested, check⟩) hends (hmc ▸ hc) hgg.symm (by rw [hmc, hcheck]; exact hdis)
          ((hgl _).trans (if_pos rfl)) hdir ((pendingCells_modPortion _ _ fun p => by split <;> rfl).trans hpc)
      rw [hgp] at hp
      refine ⟨settleHost t, handed.trans (by rw [hend]), hstate, htimer, ?_, ?_, hwaiting, ?_,
        ⟨l', hl', hheld, hroute, hportions.trans (portions_modPortion_ite ..)⟩, htallies.trans (hg ▸ rfl), hcatalog.trans (hg ▸ rfl),
        hlist.trans (hg ▸ rfl), fun y hy => (hother y hy).trans ((hgl y).trans (if_neg (Ne.symm hy)))⟩
      all_goals rw [settleHost_port, hp]

end Sys2Proof.CellProofs
end

section
namespace Sys2Proof.CellProofs

open Sys2Proof Sys2Proof.Machine

/-! ### The link of a cell, which no departure, hold or round touches (R45, R62) -/

/-- The link of a cell stands as given. -/
def Linked (c : CellId) (b : Bool) (s : State) : Prop := (s.cell c).linkUp = b

namespace Linked

variable {c d : CellId} {b : Bool} {s t : State} {rnd : Round}

theorem of_cells (h : Linked c b s) (e : t.cells = s.cells) : Linked c b t := by
  unfold Linked State.cell at *
  rw [e]
  exact h

theorem raise (h : Linked c b s) (r : Report) : Linked c b (raise r s) := h.of_cells (by simp)
theorem lotFrame (h : Linked c b s) (k : LotFrame s t) : Linked c b t := h.of_cells k.cells
theorem granted (h : Linked c b s) (k : GrantFrame s t) : Linked c b t := h.of_cells k.cells
theorem held (h : Linked c b s) (k : HoldFrame s t) : Linked c b t := by
  unfold Linked
  rw [k.cell]
  exact h

theorem modCell (h : Linked c b s) {f : Cell → Cell} (hf : (f (s.cell d)).linkUp = (s.cell d).linkUp) : Linked c b (modCell d f s) := by
  unfold Linked
  rw [modCell_cell]
  split
  · next e => subst e; exact hf.trans h
  · exact h

theorem sendFrame (h : Linked c b s) (f : PartFrame) : Linked c b (sendFrame d f s) := by
  unfold Linked
  rw [sendFrame_cell]
  exact h

theorem setCellState (h : Linked c b s) (st : CellState) : Linked c b (setCellState d st s) := by
  unfold Machine.setCellState
  split
  · exact h
  · exact (h.modCell rfl).raise _

theorem setWaiting (h : Linked c b s) (p : Bool) : Linked c b (setWaiting d p s) := h

theorem updateWaiting (h : Linked c b s) (hr : RoundKeeps (Linked c b) rnd) : Linked c b (updateWaiting rnd d s) := by
  unfold Machine.updateWaiting
  split
  · split
    · exact h
    · exact hr _ (h.setWaiting true)
  · exact h.setWaiting false

theorem entryNeeded (h : Linked c b s) (hr : RoundKeeps (Linked c b) rnd) (x : LotSlot) : Linked c b (entryNeeded rnd x s) := by
  unfold Machine.entryNeeded
  split
  · exact h
  · exact kept_ite (P := Linked c b) h (hr _ h)

theorem refreshLot (h : Linked c b s) (x : LotSlot) : Linked c b (refreshLot x s) := h.lotFrame ((LotFrame.refl s).refreshLot x)

theorem modLot (h : Linked c b s) (x : LotSlot) (f : Lot → Lot) : Linked c b (modLot x f s) := h
theorem modPortion (h : Linked c b s) (ref : PortionRef) (f : Portion → Portion) : Linked c b (modPortion ref f s) := h

theorem emptyPending (h : Linked c b s) : Linked c b (emptyPending d s) := by
  unfold Machine.emptyPending
  split
  · exact h
  · exact (h.modCell rfl).modPortion _ _

/-! Holds (R28, R29) -/

theorem firstHold (h : Linked c b s) (hr : RoundKeeps (Linked c b) rnd) (x : LotSlot) : Linked c b (firstHold rnd x s) := by
  unfold Machine.firstHold
  split
  · exact h
  · next l _ =>
    exact refreshLot (kept_foldl (P := Linked c b) _ (fun _ _ k => (k.emptyPending.entryNeeded hr x).updateWaiting hr) _
      (h.held (holdsAdded_frame x l.atCells (HoldFrame.refl s)).1)) x

theorem mergeHold (h : Linked c b s) (hr : RoundKeeps (Linked c b) rnd) (x : LotSlot) (r : HoldReason) (n d : Nat) :
    Linked c b (mergeHold rnd x r n d s) := by
  have changed (l : Lot) (p : RoutePos) : HoldFrame s (Machine.checkNote x r p (s.setLot x (some l))) :=
    ((HoldFrame.refl s).lotFrame ((LotFrame.refl s).setLot _ _)).checkNote _ _ _
  unfold Machine.mergeHold
  split
  · exact h
  · refine kept_ite (P := Linked c b) h (kept_ite (P := Linked c b) ?_ ?_)
    · exact h.held ((changed _ _).lotFrame ((LotFrame.refl _).lotChanged x))
    · have raised := fun l p q => h.held (((changed l p).raise q).lotFrame ((LotFrame.refl _).lotChanged x))
      exact kept_ite (P := Linked c b) ((raised _ _ _).firstHold hr x) (raised _ _ _)

/-! The evaluation of a lot, and the end of a pass (R26, R130) -/

theorem conditionHolds (h : Linked c b s) (hr : RoundKeeps (Linked c b) rnd) (e : Evaluation) (k : CheckSel) (m : Mask) (f g : Nat) :
    Linked c b (conditionHolds rnd e k m f g s) := by
  unfold Machine.conditionHolds
  split
  · exact h
  · dsimp only
    split
    · have flagged (r : LotStepRec → LotStepRec) : Linked c b (modTally e.lot r s) := h
      exact kept_ite (P := Linked c b) (((flagged _).raise _).mergeHold hr _ _ _ _) ((flagged _).raise _)
    · exact kept_ite (P := Linked c b) (h.mergeHold hr _ _ _ _) h

theorem evaluate (h : Linked c b s) (hr : RoundKeeps (Linked c b) rnd) (x : LotSlot) (n : Nat) (f : Bool) :
    Linked c b (evaluate rnd x n f s) := by
  unfold Machine.evaluate
  split
  · exact h
  · split
    · exact h
    · refine kept_ite (P := Linked c b) h ?_
      dsimp only
      split
      · exact h
      · exact kept_ite (P := Linked c b) (show Linked c b (Machine.modLot _ _ (modTally _ _ s)) from h) h
      · exact kept_foldl (P := Linked c b) _ (fun _ _ k => kept_ite (P := Linked c b) (k.conditionHolds hr _ _ _ _ _) k) _
          (kept_ite (P := Linked c b) (h.conditionHolds hr _ _ _ _ _) h)

theorem summaryEvent (h : Linked c b s) (x : LotSlot) (p : Pass) : Linked c b (summaryEvent x p s) := by
  refine h.of_cells ?_
  unfold Machine.summaryEvent
  split
  · rfl
  · split <;> split <;> simp

theorem queuePass (h : Linked c b s) (hr : RoundKeeps (Linked c b) rnd) (x : LotSlot) (p : Pass) (n : Nat) :
    Linked c b (queuePass rnd x p n s) := ((h.modLot x _).refreshLot x).entryNeeded hr x

theorem memberRemoved (h : Linked c b s) (x : LotSlot) : Linked c b (memberRemoved x s) := by
  unfold Machine.memberRemoved
  split <;> exact h

theorem enterNoYield (h : Linked c b s) (x : LotSlot) (i : ProductIx) : Linked c b (enterNoYield x i s) :=
  memberRemoved (s := dropLive i (removeEntry x (Machine.setLotState x .noYield s)))
    (show Linked c b (Machine.setLotState x .noYield s) from h.lotFrame ((LotFrame.refl s).setLotState x _)) x

theorem proceed (h : Linked c b s) (hr : RoundKeeps (Linked c b) rnd) (x : LotSlot) : Linked c b (proceed rnd x s) := by
  have left : Linked c b (stepLeft x s) := h
  unfold Machine.proceed
  split
  · exact h
  · split
    · exact h
    · refine kept_ite (P := Linked c b) (left.enterNoYield x _) (kept_ite (P := Linked c b) ?_ (kept_ite (P := Linked c b) ?_ ?_))
      · exact (left.modLot x _).queuePass hr x _ _
      all_goals exact (left.modLot x _).refreshLot x

theorem completePass (h : Linked c b s) (hr : RoundKeeps (Linked c b) rnd) (x : LotSlot) (n : Nat) :
    Linked c b (completePass rnd x n s) := by
  unfold Machine.completePass
  split
  · exact h
  · next l _ =>
    have summed := (kept_ite (P := Linked c b) (c := l.pass = .first) (h.evaluate hr x n true) h).summaryEvent x l.pass
    have judged := fun m k : Nat => kept_ite (P := Linked c b) (c := 0 < k) (summed.mergeHold hr x .count m k) summed
    have done := fun m k q => ((judged m k).raise q).modLot x fun l => { l with route := .stepHeld }
    dsimp only
    split
    · exact kept_ite (P := Linked c b) ((done _ _ _).proceed hr x) ((done _ _ _).refreshLot x)
    · exact done _ _ _

/-! A portion leaves its cell (R25) -/

theorem scrapCheck (h : Linked c b s) (x : LotSlot) : Linked c b (scrapCheck x s) := by
  unfold Machine.scrapCheck
  split
  · exact h
  · exact kept_ite (P := Linked c b) (show Linked c b (Machine.setLotState x .scrapped s) from
      h.lotFrame ((LotFrame.refl s).setLotState x _)) h

theorem leaveCell (h : Linked c b s) (hr : RoundKeeps (Linked c b) rnd) (p : Bool) : Linked c b (leaveCell rnd p d s) := by
  unfold Machine.leaveCell
  split
  · exact h
  · have empty : Linked c b (Machine.modCell d (fun x => { x with current := none }) s) := h.modCell rfl
    dsimp only
    split
    · exact empty
    · split
      · exact empty
      · refine kept_ite (P := Linked c b) (kept_ite (P := Linked c b) ((empty.modPortion _ _).scrapCheck _) (empty.modPortion _ _))
          (kept_ite (P := Linked c b) (((empty.modPortion _ _).refreshLot _).entryNeeded hr _) ?_)
        split
        · exact kept_ite (P := Linked c b) ((empty.modPortion _ _).completePass hr _ _) ((empty.modPortion _ _).refreshLot _)
        · exact empty.modPortion _ _

/-! A placement and its setup check (R48, R49, R77) -/

theorem loadFailed (h : Linked c b s) (hr : RoundKeeps (Linked c b) rnd) (e : LoadError) : Linked c b (loadFailed rnd d e s) := by
  unfold Machine.loadFailed
  have left : Linked c b (Machine.leaveCell rnd true d (Machine.modCell d (fun x => { x with program := none }) s)) :=
    (h.modCell rfl).leaveCell hr true
  refine kept_ite (P := Linked c b) (updateWaiting (kept_ite (P := Linked c b) ?_ ?_) hr) h
  all_goals exact ((left.modCell rfl).modCell rfl).setCellState _

theorem startLoad (h : Linked c b s) (p : ProgramRev) : Linked c b (startLoad d p s).1 := by
  have loaded (f : Load → Load) : Linked c b (modLoad d f s) := h
  unfold Machine.startLoad
  split
  · split
    · exact (loaded _).granted ((GrantFrame.refl _).askBuffer d)
    · exact (loaded _).raise _
  · exact (loaded _).raise _

theorem enterSoaking (h : Linked c b s) : Linked c b (enterSoaking d s) := by
  unfold Machine.enterSoaking
  split
  · exact h
  · exact ((h.sendFrame _).modCell rfl).setCellState _

theorem setupCheck (h : Linked c b s) (hr : RoundKeeps (Linked c b) rnd) : Linked c b (setupCheck rnd d s) := by
  unfold Machine.setupCheck
  split
  · exact h
  · refine kept_ite (P := Linked c b) ?_ ((h.setCellState _).raise _)
    unfold setupFromPause
    split
    · exact h
    · refine kept_ite (P := Linked c b) (h.setCellState _) (kept_ite (P := Linked c b) h.enterSoaking ?_)
      have started := fun p => (h.setCellState (d := d) .loading).startLoad (d := d) p
      exact kept_ite (P := Linked c b) (started _) ((started _).loadFailed hr _)

theorem place (h : Linked c b s) (hr : RoundKeeps (Linked c b) rnd) (w : WaitEntry) (p : Portion) (r : Nat) :
    Linked c b (place rnd d w p r s) := by
  have placed (x : Cell) (st : PortionState) (hx : x.linkUp = (s.cell d).linkUp) : Linked c b (placedIn d w x p st r s) := by
    have written : Linked c b (Machine.setWaiting d false (s.setCell d x)) := by
      rw [← modCell_eq d (fun _ => x) s]
      exact h.modCell (f := fun _ => x) hx
    have filled := written.lotFrame (((LotFrame.refl _).modPortion ⟨w.lot, p.number⟩ (recordRevision st r)).refreshLot w.lot)
    unfold placedIn listMoved
    exact kept_ite (P := Linked c b) filled filled
  by_cases hi : (s.cell d).state = .idle
  · rw [place_idle hi]
    refine Linked.setupCheck (Linked.setCellState (placed _ _ ?_) _) hr
    rfl
  · rw [place_running hi]
    refine placed _ _ ?_
    rfl

theorem offer (h : Linked c b s) (hr : RoundKeeps (Linked c b) rnd) : Linked c b (offer rnd d s) := by
  unfold Machine.offer
  split
  · exact h
  · split
    · exact h
    · split
      · exact kept_ite (P := Linked c b) (h.place hr _ _ _) h
      · exact h

/-- An offer round leaves every link as it is. -/
theorem offerRound : RoundKeeps (Linked c b) offerRound := fun _ h =>
  kept_foldl (P := Linked c b) _ (fun _ _ k => kept_ite (P := Linked c b) (k.offer fun _ k => k) k) _ h

theorem returnPending (h : Linked c b s) (hr : RoundKeeps (Linked c b) rnd) : Linked c b (returnPending rnd d s) := by
  unfold Machine.returnPending
  split
  · exact h
  · exact (h.emptyPending.refreshLot _).entryNeeded hr _

end Linked

end Sys2Proof.CellProofs
end

section
namespace Sys2Proof.CellProofs

open Sys2Proof Sys2Proof.Machine

/-! ### Link loss (R62) -/

/-- A cell's record as its link goes DOWN, before its work is looked at (R62). -/
def unlinkedCell (x : Cell) : Cell := { x.stopTimers with linkUp := false, pause := x.pause.drop .jam }

/-- The cell and its port as the link goes DOWN (R62, R113, R121). -/
def unlinked (c : CellId) (s : State) : State := modPort c Port.linkLost (modCell c unlinkedCell s)

/-- The last step of a link loss: OFFLINE unless DOWN, and not waiting (R48, R62). -/
def offlined (c : CellId) (s : State) : State := setWaiting c false (if (s.cell c).state = .down then s else setCellState c .offline s)

/-- The portion in the current slot stays with the cell at a link loss, or there is none (R62). -/
def keepsWork (x : Cell) : Bool := x.runStarted || x.state = .purging || x.state = .draining || x.current.isNone

@[simp] theorem unlinked_cell (c : CellId) (s : State) : (unlinked c s).cell c = unlinkedCell (s.cell c) := by simp [unlinked]
@[simp] theorem unlinked_load (c d : CellId) (s : State) : (unlinked c s).load d = s.load d := rfl
@[simp] theorem unlinked_lot (c : CellId) (x : LotSlot) (s : State) : (unlinked c s).lot x = s.lot x := rfl

/-- The receiver is set hunting by the link loss itself, whatever it was (R113). -/
theorem unlinked_modPort {c : CellId} {f : Port → Port} {s : State} (h : (f (s.port c)).linkLost = (s.port c).linkLost) :
    unlinked c (modPort c f s) = unlinked c s := by
  unfold unlinked
  rw [modCell_eq, modCell_eq, modPort_cell]
  change modPort c Port.linkLost (modPort c f (s.setCell c _)) = _
  rw [modPort_modPort]
  exact modPort_congr h

theorem offlined_cell (c : CellId) (s : State) :
    (offlined c s).cell c = { s.cell c with state := if (s.cell c).state = .down then .down else .offline } := by
  unfold offlined
  split
  · next h => rw [← h]; rfl
  · unfold setCellState
    split
    · next h => rw [← h]; rfl
    · simp

theorem offlined_cell_up {c : CellId} {s : State} (h : (s.cell c).state ≠ .down) :
    (offlined c s).cell c = { s.cell c with state := .offline } := by
  rw [offlined_cell, if_neg h]

theorem offlined_eq (c : CellId) (s : State) : offlined c s = setWaiting c false
    (if (s.cell c).state = .down ∨ (s.cell c).state = .offline then s
      else raise (.cellState c (s.cell c).state .offline (s.cell c).pause (s.cell c).fault)
        (s.setCell c { s.cell c with state := .offline })) := by
  unfold offlined
  by_cases hd : (s.cell c).state = .down
  · rw [if_pos hd, if_pos (.inl hd)]
  · rw [if_neg hd]
    by_cases ho : (s.cell c).state = .offline
    · rw [setCellState_same ho, if_pos (.inr ho)]
    · rw [setCellState_ne ho, if_neg (by simp [hd, ho])]

theorem offlined_rest (c : CellId) (s : State) : offlined c s =
    { s with cells := (offlined c s).cells, waiting := (offlined c s).waiting, host := (offlined c s).host } := by
  unfold offlined setCellState
  split
  · rfl
  · split
    · rfl
    · rw [raise_eq]
      rfl

theorem updateWaiting_offlined (rnd : Round) (c : CellId) (s : State) :
    updateWaiting rnd c (if (s.cell c).state = .down then s else setCellState c .offline s) = offlined c s := by
  refine updateWaiting_not ?_
  rw [← setWaiting_cell _ c false]
  change ((offlined c s).cell c).waits = false
  rw [offlined_cell]
  dsimp only
  split <;> exact waits_of_state (by simp) (by simp)

/-- A link loss step by step: the load aborted, the pending portion back, the portion of a run that has not started back, OFFLINE (R62). -/
theorem linkLoss_eq {rnd : Round} {c : CellId} {s b : State} (hb : b = returnPending rnd c (abortLoad c (unlinked c s))) :
    linkLoss rnd c s
      = offlined c (if keepsWork (b.cell c) then b else modCell c Cell.dropHold (leaveCell rnd true c b)) := by
  rw [← updateWaiting_offlined rnd, hb]
  rfl

theorem linkLoss_modPort {rnd : Round} {c : CellId} {f : Port → Port} {s : State}
    (h : (f (s.port c)).linkLost = (s.port c).linkLost) : linkLoss rnd c (modPort c f s) = linkLoss rnd c s := by
  rw [linkLoss_eq rfl, linkLoss_eq rfl, unlinked_modPort h]

/-! ### A load aborted (R101, R102) -/

theorem failLoad_frame (c : CellId) (e : LoadError) (s : State) : SetupFrame c s (failLoad c e s) := by
  have freed (t : State) (h : SetupFrame c s t) : SetupFrame c s (setBufferWaiting c false (freeLoad c t)) :=
    h.trans ⟨rfl, fun _ _ => rfl, fun _ _ => rfl⟩
  unfold failLoad
  dsimp only
  split
  · exact ((freed _ (((SetupFrame.refl c s).modLoad c _).sendFrame _)).granted (GrantFrame.refl _).grantFree).raise _
  · exact SetupFrame.refl c s

theorem abortLoad_frame (c : CellId) (s : State) : SetupFrame c s (abortLoad c s) := by
  unfold abortLoad
  split
  · exact (failLoad_frame c _ s).setCell _
  · exact SetupFrame.refl c s

theorem failLoad_cell (c : CellId) (e : LoadError) (s : State) (d : CellId) : (failLoad c e s).cell d = s.cell d := by
  unfold failLoad
  dsimp only
  split
  · rw [raise_cell, (GrantFrame.refl _).grantFree.cell]
    exact sendFrame_cell ..
  · rfl

/-- An aborted load leaves its cell without a loaded program (R102, R103; assumption 39). -/
theorem abortLoad_cell (c : CellId) (s : State) :
    (abortLoad c s).cell c = { s.cell c with program := if (s.load c).active then none else (s.cell c).program } := by
  unfold abortLoad
  split
  · rw [modCell_cell_self, failLoad_cell]
  · rfl

theorem abortLoad_active {c : CellId} {s : State} (h : (s.load c).active) :
    abortLoad c s = modCell c (fun x => { x with program := none }) (failLoad c .aborted s) := if_pos h

namespace SetupFrame

variable {c : CellId} {s t : State}

theorem lots (h : SetupFrame c s t) : t.lots = s.lots := by rw [h.rest]
theorem lot (h : SetupFrame c s t) (x : LotSlot) : t.lot x = s.lot x := by unfold State.lot; rw [h.lots]
theorem waiting (h : SetupFrame c s t) : t.waiting = s.waiting := by rw [h.rest]
theorem waitList (h : SetupFrame c s t) : t.waitList = s.waitList := by rw [h.rest]
theorem tallies (h : SetupFrame c s t) : t.tallies = s.tallies := by rw [h.rest]

end SetupFrame

/-! ### A pending portion returns while no cell waits (R23, R83) -/

/-- Its slot is empty; beside the lots, the wait list, the shipments and the reports nothing else has changed. -/
theorem returnPending_rest {c : CellId} {s : State} (hq : s.noCellWaits) : returnPending offerRound c s =
    { modCell c (fun x => { x with pendingSlot := none }) s with
      lots := (returnPending offerRound c s).lots, waitList := (returnPending offerRound c s).waitList
      ships := (returnPending offerRound c s).ships, host := (returnPending offerRound c s).host } := by
  unfold returnPending emptyPending
  split
  · next h =>
    have same : modCell c (fun x => { x with pendingSlot := none }) s = s := by
      rw [modCell_eq, ← h]
      exact setCell_self s c
    rw [same]
  · next ref h =>
    have frame : LotFrame (modCell c (fun x => { x with pendingSlot := none }) s) (refreshLot ref.lot
        (modPortion ref (fun p => { p with state := .queued }) (modCell c (fun x => { x with pendingSlot := none }) s))) :=
      ((LotFrame.refl _).modPortion _ _).refreshLot _
    generalize refreshLot ref.lot _ = m at frame
    have listed : ∃ w, entryNeeded offerRound ref.lot m = { m with waitList := w } := by
      cases hl : m.lot ref.lot with
      | none => exact ⟨m.waitList, by unfold entryNeeded; rw [hl]⟩
      | some l => exact (entryNeeded_quiet hl fun d => (congrArg (·.get d) frame.waiting).trans (hq d)).1
    obtain ⟨w, hw⟩ := listed
    rw [hw]
    exact congrArg (fun v : State => { v with waitList := w }) frame.rest

theorem returnPending_cell {c : CellId} {s : State} (hq : s.noCellWaits) (d : CellId) :
    (returnPending offerRound c s).cell d = (modCell c (fun x => { x with pendingSlot := none }) s).cell d := by
  rw [returnPending_rest hq]
  rfl

theorem returnPending_requeued {c : CellId} {s : State} {ref : PortionRef} {l : Lot} {p : Portion} (hc : (s.cell c).pendingSlot = some ref)
    (hl : s.lot ref.lot = some l) (hp : l.portion ref.portion = some p) (hq : s.noCellWaits) :
    Requeued ref p (modCell c (fun x => { x with pendingSlot := none }) s) (returnPending offerRound c s) := by
  unfold returnPending emptyPending
  rw [hc]
  exact requeue (s := modCell c (fun x => { x with pendingSlot := none }) s) hl hp hq

/-! ### The two ways of a cell's portion at a link loss (R62) -/

section
variable {c : CellId} {s : State}

theorem aborted_quiet (hq : s.noCellWaits) : (abortLoad c (unlinked c s)).noCellWaits := fun d => by
  rw [(abortLoad_frame c _).waiting]
  exact hq d

/-- The cell once its load has been aborted and its pending portion has come back. -/
theorem returned_cell (hq : s.noCellWaits) : (returnPending offerRound c (abortLoad c (unlinked c s))).cell c
    = { unlinkedCell (s.cell c) with
        program := if (s.load c).active then none else (s.cell c).program, pendingSlot := none } := by
  rw [returnPending_cell (aborted_quiet hq), modCell_cell_self, abortLoad_cell, unlinked_cell, unlinked_load]
  rfl

theorem returned_keepsWork (hq : s.noCellWaits) :
    keepsWork ((returnPending offerRound c (abortLoad c (unlinked c s))).cell c) = keepsWork (s.cell c) := by
  rw [returned_cell hq]
  rfl

/-- A portion whose run has started, or whose cell purges or drains, stays with its cell (R62). -/
theorem linkLoss_stays (hq : s.noCellWaits) (h : keepsWork (s.cell c) = true) :
    linkLoss offerRound c s = offlined c (returnPending offerRound c (abortLoad c (unlinked c s))) := by
  rw [linkLoss_eq rfl, returned_keepsWork hq, if_pos h]

/-- A portion whose run has not started leaves its cell QUEUED (R25, R62). -/
theorem linkLoss_leaves {ref : PortionRef} {l : Lot} {p : Portion} (hq : s.noCellWaits) (h : keepsWork (s.cell c) = false)
    (hn : (s.cell c).pendingSlot = none) (hc : (s.cell c).current = some ref) (hl : s.lot ref.lot = some l)
    (hp : l.portion ref.portion = some p) (hs : l.state ≠ .scrapping) (hr : 0 < p.r) :
    ∃ v, linkLoss offerRound c s = offlined c (modCell c Cell.dropHold v)
      ∧ Requeued ref p (modCell c (fun x => { x with current := none }) (abortLoad c (unlinked c s))) v := by
  have hcell := abortLoad_cell c (unlinked c s)
  refine ⟨_, ?_, leaveCell_requeued (b := true) (by rw [hcell, unlinked_cell]; exact hc)
    (by rw [(abortLoad_frame c _).lot]; exact hl) hp hs hr (aborted_quiet hq)⟩
  rw [linkLoss_eq rfl, returned_keepsWork hq, if_neg (by simp [h]), returnPending_none (by rw [hcell, unlinked_cell]; exact hn)]

/-- With nothing in its slots and no active load a cell is OFFLINE, or stays DOWN, and no more (R62). -/
theorem linkLoss_idle {rnd : Round} (hc : (s.cell c).current = none) (hn : (s.cell c).pendingSlot = none) (ha : (s.load c).active = false) :
    linkLoss rnd c s = offlined c (unlinked c s) := by
  rw [linkLoss_eq rfl, abortLoad_idle (by rwa [unlinked_load]), returnPending_none (by rw [unlinked_cell]; exact hn), unlinked_cell,
    if_pos (by simp [keepsWork, unlinkedCell, Cell.stopTimers, hc])]

end

/-- A link loss leaves the link DOWN, whatever returns and rounds it brings (R62). -/
theorem linkLoss_linkUp (c : CellId) (s : State) : ((linkLoss offerRound c s).cell c).linkUp = false := by
  have down : Linked c false (abortLoad c (unlinked c s)) := by
    unfold Linked
    rw [abortLoad_cell, unlinked_cell]
    rfl
  have returned := down.returnPending (d := c) Linked.offerRound
  rw [linkLoss_eq rfl, offlined_cell]
  exact kept_ite (P := Linked c false) returned ((returned.leaveCell Linked.offerRound true).modCell rfl)

/-! ### Bytes on the line (R107) -/

theorem receiveCell_none {rx : Receiver} (h : rx.candidate = none) (bytes : List Byte) :
    receiveCell rx bytes = scan 0x5A judgeCell rx.inStep bytes := by
  unfold receiveCell receive
  rw [h]

theorem receiveCell_some {rx : Receiver} {cs : List Byte} (h : rx.candidate = some cs) (bytes : List Byte) :
    receiveCell rx bytes = receiveCell ⟨rx.inStep, none⟩ (0x5A :: (cs ++ bytes)) := by
  unfold receiveCell receive
  rw [h]

theorem cellBytes_eq (c : CellId) (bytes : List Byte) (s : State) : exec (.cellCandidateFail c bytes) s
    = .next (settleHost (modPort c (fun p => { p with rx := (receiveCell (s.port c).rx bytes).1 }) s)) :=
  congrArg (fun t => Host.Outcome.next (settleHost t)) (modPort_congr rfl)

theorem cellBytes_after (c : CellId) (bytes : List Byte) (rx : Receiver) (s : State) :
    exec (.cellCandidateFail c bytes) (modPort c (fun p => { p with rx := rx }) s)
      = .next (settleHost (modPort c (fun p => { p with rx := (receiveCell rx bytes).1 }) s)) := by
  rw [cellBytes_eq, modPort_modPort, modPort_port_self]

/-! ### A link loss as a command answers it -/

/-- A break on an UP link and a silence with its timer are a link loss with the report of the cause (R113). -/
theorem exec_linkLoss {c : CellId} {s : State} {command : Instr} {cause : LinkErrorCause} (hl : (s.cell c).linkUp)
    (h : command = .lineBreak c ∧ cause = .break ∨ command = .silence c ∧ (s.port c).silence ≠ none ∧ cause = .silence) :
    exec command s = .next (settleHost (raise (.linkError c cause) (linkLoss offerRound c s))) := by
  rcases h with ⟨rfl, rfl⟩ | ⟨rfl, ht, rfl⟩
  · change execLineBreak c s = _
    unfold execLineBreak
    dsimp only
    rw [if_pos hl, linkLoss_modPort rfl]
  · change execSilence c s = _
    unfold execSilence
    rw [if_pos (by simpa [hl, Option.isSome_iff_ne_none] using ht)]

/-- A report and the end of the event touch the host link and the counter of free values alone. -/
theorem settleHost_raise_rest (r : Report) (t : State) : settleHost (raise r t)
    = { t with host := (settleHost (raise r t)).host, freeTick := (settleHost (raise r t)).freeTick } := by
  rw [raise_eq]
  rfl

theorem settled_offlined (r : Report) (c : CellId) (v : State) : ∃ w h f, settleHost (raise r (offlined c v))
    = { v with cells := (offlined c v).cells, waiting := w, host := h, freeTick := f } :=
  ⟨_, _, _, (settleHost_raise_rest r (offlined c v)).trans (congrArg (fun u : State => { u with
    host := (settleHost (raise r (offlined c v))).host, freeTick := (settleHost (raise r (offlined c v))).freeTick }) (offlined_rest c v))⟩

/-- A malformed frame on an UP link, and a malformed HELLO on any, is reported (R108). -/
theorem execMalformed_eq {c : CellId} {k : ControlKind} {s u : State} (hu : u = keepAlive c (proveFrame c s)) :
    exec (.malformed c k) s = .next (settleHost (if (s.cell c).linkUp || k = .hello
      then raise (.linkError c (.malformed (controlKindByte k))) u else u)) := by
  subst hu
  rfl

theorem keepAlive_up {c : CellId} {s : State} (h : (s.cell c).linkUp) : keepAlive c (proveFrame c s) = s.heard c := by
  simp [keepAlive_proveFrame, h, State.heard]

theorem keepAlive_down {c : CellId} {s : State} (h : (s.cell c).linkUp = false) :
    keepAlive c (proveFrame c s) = modPort c (fun p => { p with rx := Receiver.between }) s := by
  simp [keepAlive_proveFrame, h]

/-! ### A link loss with work (R62, R71, R102) -/

section
variable {c : CellId} {s t : State} {r : Report}

/-- An active load ends FAILED with ABORTED, without wants, blocks in flight or a buffer (R101, R102). -/
theorem aborted_load (ha : (s.load c).active) :
    ((abortLoad c (unlinked c s)).load c).state = .failed ∧ ((abortLoad c (unlinked c s)).load c).error = some .aborted
    ∧ ((abortLoad c (unlinked c s)).load c).wants = [] ∧ ((abortLoad c (unlinked c s)).load c).inFlight = []
    ∧ (abortLoad c (unlinked c s)).bufferWaiting.get c = false ∧ (abortLoad c (unlinked c s)).holdsNoBuffer c
    ∧ ((∀ d, d ≠ c → s.bufferWaiting.get d = false) → (abortLoad c (unlinked c s)).buffers = s.buffers.map (Buffer.freedFrom c)) := by
  obtain ⟨hload, hwaiting, hpool⟩ := failLoad_leaves (c := c) (e := .aborted) (s := unlinked c s) ha
  rw [abortLoad_active (by exact ha)]
  refine ⟨?_, ?_, ?_, ?_, hwaiting, hpool, fun hw => failLoad_buffers (s := unlinked c s) ha hw⟩
  all_goals rw [modCell_load, hload]

/-- The portion of a run that has not started is QUEUED and its load ABORTED (R62, R102). -/
theorem linkLoss_requeues {ref : PortionRef} {l : Lot} {p : Portion} (ht : t = settleHost (raise r (linkLoss offerRound c s)))
    (hq : s.noCellWaits) (hst : (s.cell c).state = .reserved ∨ (s.cell c).state = .loading
      ∨ ((s.cell c).state = .soaking ∨ (s.cell c).state = .paused)) (hrun : (s.cell c).runStarted = false)
    (hn : (s.cell c).pendingSlot = none) (hc : (s.cell c).current = some ref) (hl : s.lot ref.lot = some l)
    (hp : l.portion ref.portion = some p) (hs : l.state ≠ .scrapping) (hr : 0 < p.r) :
    (t.cell c).state = .offline ∧ (t.cell c).current = none ∧ (t.cell c).pause = { (s.cell c).pause with jam := false, hold := false }
    ∧ ((s.load c).active → (t.load c).state = .failed ∧ (t.load c).error = some .aborted ∧ (t.cell c).program = none
      ∧ (t.load c).wants = [] ∧ (t.load c).inFlight = [] ∧ t.bufferWaiting.get c = false ∧ t.holdsNoBuffer c
      ∧ ((∀ d, d ≠ c → s.bufferWaiting.get d = false) → t.buffers = s.buffers.map (Buffer.freedFrom c)))
    ∧ ((t.lot ref.lot).bind fun l => l.portion ref.portion) = some { p with state := .queued } ∧ t.hasEntry ref.lot
    ∧ (∀ y, y ≠ ref.lot → t.lot y = s.lot y) ∧ t.tallies = s.tallies := by
  have hleaves : keepsWork (s.cell c) = false := by
    rcases hst with h | h | h | h <;> simp [keepsWork, hrun, hc, h]
  have hup : (s.cell c).state ≠ .down := by
    rintro h
    simp [h] at hst
  obtain ⟨v, hv, req⟩ := linkLoss_leaves hq hleaves hn hc hl hp hs hr
  obtain ⟨w, h, f, he⟩ := settled_offlined r c (modCell c Cell.dropHold v)
  have hleft : (modCell c Cell.dropHold v).cell c = { (unlinkedCell (s.cell c)).dropHold with
      program := if (s.load c).active then none else (s.cell c).program, current := none } := by
    rw [modCell_cell_self, req.cell, modCell_cell_self, abortLoad_cell, unlinked_cell]
    rfl
  have hcell : t.cell c = { (unlinkedCell (s.cell c)).dropHold with
      program := if (s.load c).active then none else (s.cell c).program, current := none, state := .offline } := by
    rw [ht, settleHost_cell, raise_cell, hv, offlined_cell_up (by rw [hleft]; exact hup), hleft]
  have hload : t.load c = (abortLoad c (unlinked c s)).load c := by
    rw [ht, hv, he]
    exact req.load c
  rw [hv, he] at ht
  refine ⟨by rw [hcell], by rw [hcell], by rw [hcell]; rfl, fun ha => ?_, ?_, ?_, fun y hy => ?_, ?_⟩
  · obtain ⟨hfailed, herror, hwants, hflight, hwaiting, hpool, hbuffers⟩ := aborted_load ha
    have hb : t.buffers = (abortLoad c (unlinked c s)).buffers := by rw [ht]; exact req.buffers
    refine ⟨hload ▸ hfailed, hload ▸ herror, by rw [hcell, if_pos ha], hload ▸ hwants, hload ▸ hflight, ?_, ?_,
      fun hw => hb.trans (hbuffers hw)⟩
    · rw [ht, ← hwaiting]
      exact congrArg (·.get c) req.bufferWaiting
    · unfold State.holdsNoBuffer at *
      rwa [hb]
  · rw [ht]; exact req.portion
  · rw [ht]; exact req.entry
  · rw [ht]; exact (req.others y hy).trans ((abortLoad_frame c _).lot y)
  · rw [ht]; exact req.tallies.trans (abortLoad_frame c (unlinked c s)).tallies

/-- The portion of a run that has started, or of a cell that purges or drains, stays; a pending one is QUEUED (R62, R71). -/
theorem linkLoss_keeps (ht : t = settleHost (raise r (linkLoss offerRound c s))) (hq : s.noCellWaits)
    (hst : (s.cell c).runStarted ∨ (s.cell c).state = .purging ∨ (s.cell c).state = .draining) (hd : (s.cell c).state ≠ .down) :
    (t.cell c).state = .offline ∧ (t.cell c).current = (s.cell c).current ∧ (t.cell c).runStarted = (s.cell c).runStarted
    ∧ (t.cell c).downAfterPurge = (s.cell c).downAfterPurge ∧ (t.cell c).pause = { (s.cell c).pause with jam := false }
    ∧ t.tallies = s.tallies ∧ ((s.cell c).pendingSlot = none → t.lots = s.lots ∧ t.waitList = s.waitList)
    ∧ ∀ ref l p, (s.cell c).pendingSlot = some ref → s.lot ref.lot = some l → l.portion ref.portion = some p →
      (t.cell c).pendingSlot = none ∧ t.hasEntry ref.lot
      ∧ ((t.lot ref.lot).bind fun l => l.portion ref.portion) = some { p with state := .queued }
      ∧ ∀ y, y ≠ ref.lot → t.lot y = s.lot y := by
  have hstays : keepsWork (s.cell c) = true := by
    rcases hst with h | h | h <;> simp [keepsWork, h]
  have hv := linkLoss_stays hq hstays
  obtain ⟨w, h, f, he⟩ := settled_offlined r c (returnPending offerRound c (abortLoad c (unlinked c s)))
  have hcell : t.cell c = { unlinkedCell (s.cell c) with
      program := if (s.load c).active then none else (s.cell c).program, pendingSlot := none, state := .offline } := by
    rw [ht, settleHost_cell, raise_cell, hv, offlined_cell_up (by rw [returned_cell hq]; exact hd), returned_cell hq]
  have frame := abortLoad_frame c (unlinked c s)
  have hpending : ((abortLoad c (unlinked c s)).cell c).pendingSlot = (s.cell c).pendingSlot := by
    rw [abortLoad_cell, unlinked_cell]
    rfl
  rw [hv, he] at ht
  refine ⟨by rw [hcell], by rw [hcell]; rfl, by rw [hcell]; rfl, by rw [hcell]; rfl, by rw [hcell]; rfl, ?_, fun hn => ?_,
    fun ref l p hn hl hp => ?_⟩
  · rw [ht, returnPending_rest (aborted_quiet hq)]
    exact frame.tallies
  · rw [ht, returnPending_none (hpending.trans hn)]
    exact ⟨frame.lots, frame.waitList⟩
  · have req := returnPending_requeued (hpending.trans hn) ((frame.lot _).trans hl) hp (aborted_quiet hq)
    refine ⟨by rw [hcell], ?_, ?_, fun y hy => ?_⟩
    · rw [ht]; exact req.entry
    · rw [ht]; exact req.portion
    · rw [ht]; exact (req.others y hy).trans (frame.lot y)

/-- A load under way ends ABORTED also where no portion leaves with it (R102). -/
theorem linkLoss_aborts (ht : t = settleHost (raise r (linkLoss offerRound c s))) (hq : s.noCellWaits) (ha : (s.load c).active)
    (hst : (s.cell c).current = none ∨ (s.cell c).runStarted) (hn : (s.cell c).pendingSlot = none)
    (hw : ∀ d, d ≠ c → s.bufferWaiting.get d = false) :
    (t.load c).state = .failed ∧ (t.load c).error = some .aborted ∧ (t.load c).wants = [] ∧ (t.load c).inFlight = []
    ∧ t.bufferWaiting.get c = false ∧ t.buffers = s.buffers.map (Buffer.freedFrom c) ∧ (t.cell c).program = none := by
  have hstays : keepsWork (s.cell c) = true := by
    rcases hst with h | h <;> simp [keepsWork, h]
  obtain ⟨hfailed, herror, hwants, hflight, hwaiting, -, hbuffers⟩ := aborted_load ha
  have hv := linkLoss_stays hq hstays
  rw [returnPending_none (by rw [abortLoad_cell, unlinked_cell]; exact hn)] at hv
  have hcell : (t.cell c).program = none := by
    rw [ht, settleHost_cell, raise_cell, hv, offlined_cell, abortLoad_cell, if_pos (by exact ha)]
  obtain ⟨w, h, f, he⟩ := settled_offlined r c (abortLoad c (unlinked c s))
  rw [hv, he] at ht
  rw [ht] at hcell ⊢
  exact ⟨hfailed, herror, hwants, hflight, hwaiting, hbuffers hw, hcell⟩

end

/-- Settles O40: proved frames, the scan of bytes, and the link loss by what the cell holds. -/
theorem cellLineEvents : Obligations.CellLineEvents := by
  unfold Obligations.CellLineEvents
  intro s c
  refine ⟨fun hl => ⟨?_, fun k => ?_⟩, fun hd u hu => ⟨?_, fun k hk => ?_, ?_, ?_, ?_⟩, fun hn => ?_, fun line hline => ?_,
    fun hl hc hn ha x u hx hu command cause h => ?_, fun command hl hq h => ?_, fun h => ?_, fun f h => ?_⟩
  · exact congrArg Host.Outcome.next (stationFrame_up hl)
  · rw [execMalformed_eq (keepAlive_up hl).symm, if_pos (by simp [hl])]
  · rw [hu]
    exact congrArg Host.Outcome.next (stationFrame_down hd)
  · rw [hu, execMalformed_eq (keepAlive_down hd).symm, if_neg (by simp [hd, hk])]
  · rw [hu, execMalformed_eq (keepAlive_down hd).symm, if_pos (by simp)]
  · change execLineBreak c s = _
    simp [execLineBreak, hd, Receiver.hunting]
  · change execSilence c s = _
    simp [execSilence, hd]
  · change execSilence c s = _
    simp [execSilence, hn]
  · subst hline
    refine ⟨fun cs bytes hcs => ?_, fun hcs => ⟨?_, fun bytes => ⟨fun b hb => ?_, fun hj => ?_, fun hj => ?_, fun inner rest hj => ?_⟩⟩⟩
    · rw [cellBytes_eq, cellBytes_after, receiveCell_some hcs]
    · rw [cellBytes_eq, receiveCell_none hcs]
      exact congrArg (fun t => Host.Outcome.next (settleHost t)) (modPort_self (by simp [scan, ← hcs]))
    · rw [cellBytes_eq, cellBytes_after, receiveCell_none hcs, receiveCell_none rfl, scan, if_neg hb]
    · rw [cellBytes_eq, receiveCell_none hcs, scan, if_pos rfl, hj]
    · rw [cellBytes_eq, cellBytes_after, receiveCell_none hcs, receiveCell_none rfl, scan, if_pos rfl, hj]
    · rw [cellBytes_eq, receiveCell_none hcs, scan, if_pos rfl, hj]
  · have hv : u = (unlinked c s).setCell c x := by
      rw [hu, unlinked, modCell_eq, modPort_setCell, setCell_setCell]
      rfl
    rw [exec_linkLoss hl h, linkLoss_idle hc hn ha, offlined_eq, unlinked_cell, hv]
    have same : (unlinkedCell (s.cell c)).state = (s.cell c).state := rfl
    rw [same]
    split
    · next hs =>
      have stays : x = (unlinked c s).cell c := by
        rw [hx, unlinked_cell]
        rcases hs with hs | hs <;> rw [hs] <;> simp [unlinkedCell, Cell.stopTimers, PauseSet.drop, hs]
      rw [stays, setCell_self]
    · next hs =>
      have falls : x = { unlinkedCell (s.cell c) with state := .offline } := by
        rw [hx, if_neg fun hd => hs (.inl hd)]
        rfl
      rw [falls]
  · obtain ⟨r, he⟩ : ∃ r, exec command s = .next (settleHost (raise r (linkLoss offerRound c s))) := by
      rcases h with rfl | ⟨rfl, ht⟩
      · exact ⟨_, exec_linkLoss hl (.inl ⟨rfl, rfl⟩)⟩
      · exact ⟨_, exec_linkLoss hl (.inr ⟨rfl, ht, rfl⟩)⟩
    refine ⟨_, he, ?_, fun ref l p => linkLoss_requeues rfl hq, linkLoss_keeps rfl hq, linkLoss_aborts rfl hq⟩
    rw [settleHost_cell, raise_cell]
    exact linkLoss_linkUp c s
  · change Host.Outcome.next (settleHost (modPort c Port.frameSent s)) = _
    rw [modPort_self (by simp [Port.frameSent, h])]
  · exact congrArg (fun t => Host.Outcome.next (settleHost t)) (modPort_congr (by simp [Port.frameSent, h]))

end Sys2Proof.CellProofs
end

section
namespace Sys2Proof.CellProofs

open Sys2Proof Sys2Proof.Machine

/-! ### The record at the head of the queue (R114, R116) -/

/-- The port once its head record has been taken, before the record acts (R114). -/
def popped (c : CellId) (rest : List IntakeRecord) (s : State) : State := modPort c (fun p => { p with queue := rest }) s

@[simp] theorem popped_port (c : CellId) (rest : List IntakeRecord) (s : State) :
    (popped c rest s).port c = { s.port c with queue := rest } := by simp [popped]
@[simp] theorem popped_cell (c d : CellId) (rest : List IntakeRecord) (s : State) : (popped c rest s).cell d = s.cell d := rfl

theorem taken_eq {c : CellId} {r : IntakeRecord} {rest : List IntakeRecord} {s : State} (h : (s.port c).queue = r :: rest) :
    exec (.intakeRecordTaken c) s = .next (settleHost
      (r.marks.foldl (actOnMark offerRound c) (actOnRecord offerRound c r (latchStatus c r (popped c rest s))))) := by
  change execIntakeRecordTaken c s = _
  unfold execIntakeRecordTaken takeRecord popped
  rw [h]

theorem latchStatus_silent {c : CellId} {r : IntakeRecord} {s : State} (h : r.status = .ok ∨ r.status = .malformed) :
    latchStatus c r s = s := by
  unfold latchStatus
  rcases h with h | h <;> rw [h]

theorem actOnRecord_result {rnd : Round} {c : CellId} {r : IntakeRecord} {s : State} (hk : r.kind = .siteResult) (hs : r.status ≠ .stray) :
    actOnRecord rnd c r s = modPort c (joinGroup r) s := by
  unfold actOnRecord
  rw [if_neg hs, hk]

theorem actOnRecord_groupEnd {rnd : Round} {c : CellId} {r : IntakeRecord} {s : State} (hk : r.kind = .groupEnd) (hs : r.status ≠ .stray) :
    actOnRecord rnd c r s = closeGroup rnd c r s := by
  unfold actOnRecord
  rw [if_neg hs, hk]

/-- A latch, as the port's record with its report where the flag was clear (R116). -/
theorem modPort_latch {c : CellId} {cause : LinkErrorCause} {f : Port → Port} {s t : State}
    (hf : ∀ p l, f { p with flags := l } = { f p with flags := l })
    (ht : t = modPort c (fun p => { f p with flags := latchOf cause (s.port c).flags }) s) :
    modPort c f (latch c cause s) = if latchOf cause (s.port c).flags = (s.port c).flags then t else raise (.linkError c cause) t := by
  unfold latch
  split
  · next h =>
    rw [ht, h]
    refine modPort_congr ?_
    rw [← hf]
  · rw [← raise_modPort, modPort_modPort, ht]
    refine congrArg _ (modPort_congr ?_)
    exact hf _ _

/-! ### The GROUP-END (R115) -/

/-- The flags once the number of a readable GROUP-END has been compared with the last one (R115, R116). -/
def sequenced (td : BitVec 16) (p : Port) : LinkFlags :=
  if p.lastTouchdown = none ∨ p.lastTouchdown = some (td - 1) then p.flags else { p.flags with seqGap := true }

theorem follows_iff (td n : BitVec 16) : td = n + 1 ↔ n = td - 1 := by
  constructor
  · rintro rfl
    simp
  · rintro rfl
    simp

/-- The port with its group closed by a readable GROUP-END (R115). -/
def groupClosed (c : CellId) (r : IntakeRecord) (rest : List IntakeRecord) (s : State) : State :=
  modPort c (fun p => { p with
    queue := rest, group := [], groupCount := 0, lastTouchdown := some r.touchdown, flags := sequenced r.touchdown (s.port c) }) s

/-- The same with SEQ-GAP's report where the number does not follow and the flag was clear (R115, R116). -/
def groupTaken (c : CellId) (r : IntakeRecord) (rest : List IntakeRecord) (s : State) : State :=
  if sequenced r.touchdown (s.port c) = (s.port c).flags then groupClosed c r rest s
  else raise (.linkError c (.seqGap r.touchdown)) (groupClosed c r rest s)

section
variable (c : CellId) (r : IntakeRecord) (rest : List IntakeRecord) (s : State)

theorem groupTaken_cell (d : CellId) : (groupTaken c r rest s).cell d = s.cell d := by
  unfold groupTaken groupClosed
  split <;> simp

theorem groupTaken_port : (groupTaken c r rest s).port c = { s.port c with
    queue := rest, group := [], groupCount := 0, lastTouchdown := some r.touchdown, flags := sequenced r.touchdown (s.port c) } := by
  unfold groupTaken groupClosed
  split <;> simp

theorem groupTaken_port_other {d : CellId} (hd : d ≠ c) : (groupTaken c r rest s).port d = s.port d := by
  unfold groupTaken groupClosed
  split <;> simp [modPort_port, Ne.symm hd]

theorem groupTaken_rest :
    groupTaken c r rest s = { s with ports := (groupTaken c r rest s).ports, host := (groupTaken c r rest s).host } := by
  unfold groupTaken
  split
  · rfl
  · rw [raise_eq]
    rfl

theorem groupTaken_currentWork : (groupTaken c r rest s).currentWork c = s.currentWork c := by
  rw [groupTaken_rest]
  rfl

end

theorem checkSequence_taken {c : CellId} {r : IntakeRecord} {rest : List IntakeRecord} {s : State} (hs : r.status = .ok) :
    modPort c Port.dropGroup (checkSequence c r (popped c rest s)) = groupTaken c r rest s := by
  have keeps (h : sequenced r.touchdown (s.port c) = (s.port c).flags) : modPort c Port.dropGroup
      (modPort c (fun p => { p with lastTouchdown := some r.touchdown }) (popped c rest s)) = groupTaken c r rest s := by
    rw [groupTaken, if_pos h, groupClosed, popped, modPort_modPort, modPort_modPort, h]
    exact modPort_congr rfl
  unfold checkSequence
  rw [hs]
  dsimp only
  cases hl : (s.port c).lastTouchdown with
  | none =>
    have hq : sequenced r.touchdown (s.port c) = (s.port c).flags := if_pos (.inl hl)
    rw [popped_port]
    dsimp only
    rw [hl]
    exact keeps hq
  | some n =>
    rw [popped_port]
    dsimp only
    rw [hl]
    dsimp only
    by_cases hn : r.touchdown = n + 1
    · have hq : sequenced r.touchdown (s.port c) = (s.port c).flags :=
        if_pos (.inr (hl.trans (congrArg some ((follows_iff _ _).mp hn))))
      rw [if_pos hn]
      exact keeps hq
    · have hq : sequenced r.touchdown (s.port c) = { (s.port c).flags with seqGap := true } := by
        unfold sequenced
        rw [if_neg]
        rw [hl]
        rintro (h | h)
        · cases h
        · exact hn ((follows_iff _ _).mpr (Option.some.inj h))
      rw [if_neg hn, modPort_modPort, modPort_latch (cause := .seqGap r.touchdown) (t := groupClosed c r rest s) (fun _ _ => rfl)]
      · rw [popped_port, groupTaken, hq]
        rfl
      · rw [groupClosed, popped, modPort_modPort, hq]
        exact modPort_congr (by simp [latchOf, Port.dropGroup])

end Sys2Proof.CellProofs
end

section
namespace Sys2Proof.CellProofs

open Sys2Proof Sys2Proof.Machine

/-! ### The tally of a group (R125, R126) -/

theorem bin_raise {f : Counts} {a b : Nat} (h1 : 1 ≤ a) (h2 : a ≤ 16) : (f.raise a).bin b = f.bin b + if a = b then 1 else 0 := by
  unfold Counts.raise Counts.bin
  rw [dif_pos ⟨h1, h2⟩]
  by_cases hb : b = 0
  · subst hb
    simp [show a ≠ 0 by omega]
  · by_cases hab : a = b
    · subst hab
      simp [hb, List.getD, show a - 1 < 16 by omega]
    · simp [hb, hab, List.getD, show a - 1 ≠ b - 1 by omega]

/-- Results counted one after another: each bin rises by the results in it (R125). -/
theorem bin_foldl_raise (rs : List IntakeRecord) (h : ∀ q ∈ rs, 1 ≤ q.bin.toNat ∧ q.bin.toNat ≤ 16) (f : Counts) (b : Nat) :
    (rs.foldl (fun f q => f.raise q.bin.toNat) f).bin b = f.bin b + (rs.filter fun q => q.bin.toNat = b).length := by
  induction rs generalizing f with
  | nil => simp
  | cons q rs ih =>
    obtain ⟨h1, h2⟩ := h q List.mem_cons_self
    rw [List.foldl_cons, ih (fun q hq => h q (List.mem_cons_of_mem _ hq)), bin_raise h1 h2, List.filter_cons]
    by_cases hb : q.bin.toNat = b
    · simp [hb]; omega
    · simp [hb]

theorem foldl_tallyResult_first (rs : List IntakeRecord) (t : LotStepRec) :
    rs.foldl (tallyResult .first) t = { t with first := rs.foldl (fun f q => f.raise q.bin.toNat) t.first } := by
  induction rs generalizing t with
  | nil => rfl
  | cons q rs ih => rw [List.foldl_cons, ih]; rfl

theorem foldl_tallyResult_retest (rs : List IntakeRecord) (t : LotStepRec) :
    rs.foldl (tallyResult .retest) t = { t with retest := rs.foldl (fun f q => f.raise q.bin.toNat) t.retest } := by
  induction rs generalizing t with
  | nil => rfl
  | cons q rs ih => rw [List.foldl_cons, ih]; rfl

/-- A group's results in the tally, its units in the portion, and the two counts of the run raised (R24, R125, R126). -/
def countedGroup (c : CellId) (ref : PortionRef) (pass : Pass) (rs : List IntakeRecord) (s : State) : State :=
  setRunGroups c (satInc 65535 (s.runGroups.get c)) (modCell c (fun x => { x with runTested := x.runTested + rs.length })
    (modPortion ref (tallyPortion rs.length s.floorTime) (modTally ref.lot (fun t => rs.foldl (tallyResult pass) t) s)))

theorem talliedGroup_eq {rnd : Round} {c : CellId} {td : BitVec 16} {rs : List IntakeRecord} {s u : State} {ref : PortionRef} {l : Lot}
    {p : Portion} {st : StepRec} (hw : s.currentWork c = some (ref, l, p, st)) (hu : u = tallyReport c ref.lot p.number td
      (rs.foldl (countSite rnd c st.limits.consecFail) (countedGroup c ref (passOf p.number) rs s))) :
    talliedGroup rnd c td rs s = if passOf p.number = .first then evaluate rnd ref.lot p.number false u else u := by
  unfold talliedGroup
  rw [hw, hu]
  rfl

@[simp] theorem countedGroup_cell (c : CellId) (ref : PortionRef) (pass : Pass) (rs : List IntakeRecord) (s : State) :
    (countedGroup c ref pass rs s).cell c = { s.cell c with runTested := (s.cell c).runTested + rs.length } := by
  simp [countedGroup]

theorem countedGroup_cell_other {c d : CellId} (ref : PortionRef) (pass : Pass) (rs : List IntakeRecord) (s : State) (h : d ≠ c) :
    (countedGroup c ref pass rs s).cell d = s.cell d := by
  unfold countedGroup
  rw [setRunGroups_cell, modCell_cell, if_neg (Ne.symm h)]
  rfl

theorem countedGroup_tally (c : CellId) (ref : PortionRef) (pass : Pass) (rs : List IntakeRecord) (s : State) (y : LotSlot) :
    (countedGroup c ref pass rs s).tally y = if ref.lot = y then rs.foldl (tallyResult pass) (s.tally ref.lot) else s.tally y :=
  modTally_tally s ref.lot y fun t => rs.foldl (tallyResult pass) t

theorem countedGroup_lot {c : CellId} {ref : PortionRef} {pass : Pass} {rs : List IntakeRecord} {s : State} {l : Lot}
    (hl : s.lot ref.lot = some l) (y : LotSlot) : (countedGroup c ref pass rs s).lot y
      = if ref.lot = y then some (l.modPortion ref.portion (tallyPortion rs.length s.floorTime)) else s.lot y :=
  modPortion_lot (s := modTally ref.lot (fun t => rs.foldl (tallyResult pass) t) s) hl y

@[simp] theorem countedGroup_port (c d : CellId) (ref : PortionRef) (pass : Pass) (rs : List IntakeRecord) (s : State) :
    (countedGroup c ref pass rs s).port d = s.port d := rfl
@[simp] theorem countedGroup_host (c : CellId) (ref : PortionRef) (pass : Pass) (rs : List IntakeRecord) (s : State) :
    (countedGroup c ref pass rs s).host = s.host := rfl
@[simp] theorem countedGroup_floorTime (c : CellId) (ref : PortionRef) (pass : Pass) (rs : List IntakeRecord) (s : State) :
    (countedGroup c ref pass rs s).floorTime = s.floorTime := rfl

/-- The work of a cell whose group has been counted: the same lot, portion and step, the portion's units moved (R24). -/
theorem countedGroup_work {c : CellId} {ref : PortionRef} {pass : Pass} {rs : List IntakeRecord} {s : State} {l : Lot} {p : Portion}
    {st : StepRec} (hw : s.currentWork c = some (ref, l, p, st)) : (countedGroup c ref pass rs s).currentWork c
      = some (ref, l.modPortion ref.portion (tallyPortion rs.length s.floorTime), tallyPortion rs.length s.floorTime p, st) := by
  obtain ⟨hc, hl, hp, hst⟩ := currentWork_some hw
  exact currentWork_of (by rw [countedGroup_cell]; exact hc) ((countedGroup_lot hl _).trans (if_pos rfl))
    (portion_modPortion hp fun _ => rfl) hst

/-! ### What the sites' counts and a TALLY report touch (R58, R126, R127) -/

/-- Of its own cell the counts of the sites, the switched-off set, the state and the two timers a drain stops; of its port what it sends;
the waiting mark and the reports. -/
structure CountFrame (c : CellId) (s t : State) : Prop where
  rest : t = { s with cells := t.cells, ports := t.ports, waiting := t.waiting, host := t.host }
  cell : t.cell c = { s.cell c with
    consec := (t.cell c).consec, siteOff := (t.cell c).siteOff, state := (t.cell c).state, soakTimer := (t.cell c).soakTimer
    dwellTimer := (t.cell c).dwellTimer }
  port : t.port c = { s.port c with tx := (t.port c).tx, txList := (t.port c).txList }
  others : ∀ d, d ≠ c → t.cell d = s.cell d ∧ t.port d = s.port d

namespace CountFrame

variable {c : CellId} {s t u : State}

theorem refl (c : CellId) (s : State) : CountFrame c s s := ⟨rfl, rfl, rfl, fun _ _ => ⟨rfl, rfl⟩⟩

theorem trans (h : CountFrame c s t) (k : CountFrame c t u) : CountFrame c s u where
  rest := k.rest.trans (by rw [h.rest])
  cell := k.cell.trans (by rw [h.cell])
  port := k.port.trans (by rw [h.port])
  others d hd := ⟨(k.others d hd).1.trans (h.others d hd).1, (k.others d hd).2.trans (h.others d hd).2⟩

theorem raise (h : CountFrame c s t) (r : Report) : CountFrame c s (raise r t) :=
  h.trans ⟨by rw [raise_eq], by rw [raise_cell], by rw [raise_port], fun d _ => ⟨raise_cell .., raise_port ..⟩⟩

theorem setWaiting (h : CountFrame c s t) (b : Bool) : CountFrame c s (setWaiting c b t) :=
  h.trans ⟨rfl, rfl, rfl, fun _ _ => ⟨rfl, rfl⟩⟩

theorem setCell (h : CountFrame c s t) {x : Cell} (hx : x = { t.cell c with
    consec := x.consec, siteOff := x.siteOff, state := x.state, soakTimer := x.soakTimer, dwellTimer := x.dwellTimer }) :
    CountFrame c s (t.setCell c x) :=
  h.trans ⟨rfl, by rw [setCell_cell_self]; exact hx, rfl, fun d hd => ⟨by rw [setCell_cell, if_neg (Ne.symm hd)], rfl⟩⟩

theorem sendFrame (h : CountFrame c s t) (f : PartFrame) : CountFrame c s (sendFrame c f t) := by
  refine h.trans ⟨by rw [sendFrame_rest], by rw [sendFrame_cell], ?_, fun d hd => ⟨sendFrame_cell .., sendFrame_port_other f t hd⟩⟩
  obtain ⟨tx, l, e⟩ := sendFrame_port c f t c
  rw [e]

theorem tallyReport (h : CountFrame c s t) (x : LotSlot) (n : Nat) (td : BitVec 16) : CountFrame c s (tallyReport c x n td t) := by
  unfold Machine.tallyReport
  split
  · exact h
  · dsimp only
    split
    · exact h.raise _
    · exact h

theorem lot (h : CountFrame c s t) (x : LotSlot) : t.lot x = s.lot x := by rw [h.rest]; rfl
theorem tally (h : CountFrame c s t) (x : LotSlot) : t.tally x = s.tally x := by rw [h.rest]; rfl
theorem runGroups (h : CountFrame c s t) : t.runGroups = s.runGroups := by rw [h.rest]

end CountFrame

theorem tallyPortion_eq (g time : Nat) : tallyPortion g time
    = fun p => { p with h := p.h - g, t := p.t + g, firstProduction := some (p.firstProduction.getD time) } := by
  funext p
  unfold tallyPortion
  cases p.firstProduction <;> rfl

section
variable {c : CellId} {ref : PortionRef} {pass : Pass} {rs : List IntakeRecord} {m u : State}

/-- What a tallied group leaves in its pass's tally, whatever its sites bring (R125). -/
theorem counted_tally (frame : CountFrame c (countedGroup c ref pass rs m) u) (hb : ∀ q ∈ rs, 1 ≤ q.bin.toNat ∧ q.bin.toNat ≤ 16) :
    (pass = .first → u.tally ref.lot = { m.tally ref.lot with first := (u.tally ref.lot).first }
      ∧ ∀ b, (u.tally ref.lot).first.bin b = (m.tally ref.lot).first.bin b + (rs.filter fun q => q.bin.toNat = b).length)
    ∧ (pass = .retest → u.tally ref.lot = { m.tally ref.lot with retest := (u.tally ref.lot).retest }
      ∧ ∀ b, (u.tally ref.lot).retest.bin b = (m.tally ref.lot).retest.bin b + (rs.filter fun q => q.bin.toNat = b).length) := by
  have tally : u.tally ref.lot = rs.foldl (tallyResult pass) (m.tally ref.lot) :=
    (frame.tally _).trans ((countedGroup_tally ..).trans (if_pos rfl))
  refine ⟨?_, ?_⟩
  · rintro rfl
    rw [tally, foldl_tallyResult_first]
    exact ⟨rfl, fun b => bin_foldl_raise rs hb _ b⟩
  · rintro rfl
    rw [tally, foldl_tallyResult_retest]
    exact ⟨rfl, fun b => bin_foldl_raise rs hb _ b⟩

/-- What it leaves in the portion, and that no other lot changes (R24). -/
theorem counted_lots {l : Lot} (frame : CountFrame c (countedGroup c ref pass rs m) u) (hl : m.lot ref.lot = some l) :
    u.lot ref.lot = some (l.modPortion ref.portion fun p => { p with
      h := p.h - rs.length, t := p.t + rs.length, firstProduction := some (p.firstProduction.getD m.floorTime) })
    ∧ ∀ y, y ≠ ref.lot → u.lot y = m.lot y ∧ u.tally y = m.tally y := by
  have lot (y : LotSlot) : u.lot y = if ref.lot = y then some (l.modPortion ref.portion (tallyPortion rs.length m.floorTime)) else m.lot y :=
    (frame.lot y).trans (countedGroup_lot hl y)
  refine ⟨?_, fun y hy => ⟨(lot y).trans (if_neg (Ne.symm hy)), ?_⟩⟩
  · rw [lot, if_pos rfl, tallyPortion_eq]
  · exact (frame.tally y).trans ((countedGroup_tally ..).trans (if_neg (Ne.symm hy)))

theorem counted_cells (frame : CountFrame c (countedGroup c ref pass rs m) u) :
    (u.cell c).runTested = (m.cell c).runTested + rs.length ∧ u.runGroups.get c = satInc 65535 (m.runGroups.get c)
    ∧ (u.cell c).lifetime = (m.cell c).lifetime ∧ (∀ d, d ≠ c → u.cell d = m.cell d ∧ u.port d = m.port d)
    ∧ u.port c = { m.port c with tx := (u.port c).tx, txList := (u.port c).txList } := by
  have cell := frame.cell
  rw [countedGroup_cell] at cell
  refine ⟨by rw [cell], ?_, by rw [cell], fun d hd => ?_, frame.port⟩
  · rw [frame.runGroups]
    exact get_set_same _ _ _
  · exact ⟨(frame.others d hd).1.trans (countedGroup_cell_other _ _ _ _ hd), (frame.others d hd).2⟩

theorem counted_rest (frame : CountFrame c (countedGroup c ref pass rs m) u) : u = { m with
    lots := u.lots, tallies := u.tallies, runGroups := u.runGroups, cells := u.cells, ports := u.ports, waiting := u.waiting
    host := u.host } :=
  frame.rest.trans (by rw [frame.rest]; rfl)

end

/-! ### The sites' consecutive-fail counts (R127) -/

/-- The consecutive-fail count of a site after a result (R127). -/
def siteCount (x : Cell) (q : IntakeRecord) (k : Fin 8) : Nat := if q.bin = 1 then 0 else satInc 255 (x.consec.get k)

/-- A cell's record with the count of a result's site (R127). -/
def siteCounted (x : Cell) (q : IntakeRecord) (k : Fin 8) : Cell := { x with consec := x.consec.set k.val (siteCount x q k) k.isLt }

theorem consecAfter_bin (b : Byte) (n : Nat) : consecAfter b.toNat n = if b = 1 then 0 else satInc 255 n := by
  unfold consecAfter
  refine ite_congr (propext ⟨fun h => BitVec.eq_of_toNat_eq h, fun h => by rw [h]; rfl⟩) (fun _ => rfl) fun _ => rfl

theorem countSite_eq {rnd : Round} {c : CellId} {limit : Nat} {s : State} {q : IntakeRecord} {k : Fin 8} (h : q.site.toNat = k.val) :
    countSite rnd c limit s q = if limit ≠ 0 ∧ siteCount (s.cell c) q k = limit ∧ (s.cell c).consec.get k < siteCount (s.cell c) q k
      then siteLimit rnd c k.val (s.setCell c (siteCounted (s.cell c) q k)) else s.setCell c (siteCounted (s.cell c) q k) := by
  unfold countSite
  dsimp only
  have hlt : q.site.toNat < 8 := h ▸ k.isLt
  obtain rfl : k = ⟨q.site.toNat, hlt⟩ := Fin.ext h.symm
  rw [dif_pos hlt]
  simp only [consecAfter_bin, modCell_eq]
  exact ite_congr (by simp [siteCount, and_assoc]) (fun _ => rfl) fun _ => rfl

theorem countSite_beyond {rnd : Round} {c : CellId} {limit : Nat} {s : State} {q : IntakeRecord} (h : 8 ≤ q.site.toNat) :
    countSite rnd c limit s q = s := by
  unfold countSite
  exact dif_neg (by omega)

/-- The counts of a group's sites, no two of its results of one site and none at the limit (R127). -/
theorem countSites_quiet {rnd : Round} {c : CellId} {limit : Nat} (rs : List IntakeRecord) (hd : (rs.map (·.site)).Nodup) (s : State)
    (hq : ∀ q ∈ rs, ∀ k : Fin 8, q.site.toNat = k.val →
      ¬ (limit ≠ 0 ∧ siteCount (s.cell c) q k = limit ∧ (s.cell c).consec.get k < siteCount (s.cell c) q k)) :
    ∃ v, rs.foldl (countSite rnd c limit) s = s.setCell c { s.cell c with consec := v }
      ∧ ∀ k : Fin 8, v.get k = (rs.find? fun q => q.site.toNat = k.val).elim ((s.cell c).consec.get k) fun q => siteCount (s.cell c) q k := by
  induction rs generalizing s with
  | nil => exact ⟨(s.cell c).consec, (setCell_self s c).symm, fun _ => rfl⟩
  | cons q rs ih =>
    rw [List.map_cons, List.nodup_cons] at hd
    obtain ⟨hfresh, hd⟩ := hd
    have apart (k : Fin 8) (hk : q.site.toNat = k.val) : ∀ q' ∈ rs, q'.site.toNat ≠ k.val := fun q' hm e =>
      hfresh (List.mem_map.mpr ⟨q', hm, BitVec.eq_of_toNat_eq (e.trans hk.symm)⟩)
    rw [List.foldl_cons]
    by_cases h8 : 8 ≤ q.site.toNat
    · rw [countSite_beyond h8]
      obtain ⟨v, hv, hget⟩ := ih hd s fun q' hm => hq q' (List.mem_cons_of_mem _ hm)
      refine ⟨v, hv, fun k => ?_⟩
      rw [hget, List.find?_cons_of_neg (by simp; omega)]
    · obtain ⟨k, hk⟩ : ∃ k : Fin 8, q.site.toNat = k.val := ⟨⟨q.site.toNat, by omega⟩, rfl⟩
      rw [countSite_eq hk, if_neg (hq q List.mem_cons_self k hk)]
      have same (j : Fin 8) (hj : k ≠ j) : (siteCounted (s.cell c) q k).consec.get j = (s.cell c).consec.get j := get_set_other _ _ _ _ hj
      obtain ⟨v, hv, hget⟩ := ih hd (s.setCell c (siteCounted (s.cell c) q k)) (by
        intro q' hm j hj
        have hkj : k ≠ j := fun e => apart k hk q' hm (e ▸ hj)
        rw [setCell_cell_self]
        unfold siteCount
        rw [same j hkj]
        exact hq q' (List.mem_cons_of_mem _ hm) j hj)
      refine ⟨v, by rw [hv, setCell_setCell, setCell_cell_self]; rfl, fun j => ?_⟩
      rw [hget, setCell_cell_self]
      by_cases hkj : k = j
      · subst hkj
        rw [List.find?_eq_none.mpr (by simpa using apart k hk), List.find?_cons_of_pos (by simpa using hk)]
        exact get_set_same _ _ _
      · rw [List.find?_cons_of_neg (by simpa [hk] using fun e => hkj (Fin.ext e)), same j hkj]
        cases rs.find? fun q => q.site.toNat = j.val with
        | none => rfl
        | some q' => simp only [Option.elim, siteCount, same j hkj]

/-! ### A site that reaches the limit (R58) -/

theorem siteLimit_eq {rnd : Round} {c : CellId} {k : Nat} {s t : State} {ref : PortionRef} {l : Lot} {p : Portion} {st : StepRec}
    (hoff : SiteSet.has (s.cell c).siteOff k = false) (hw : s.currentWork c = some (ref, l, p, st))
    (ht : t = raise (.siteOff c k l.id p.number ((s.cell c).consec.toList.getD k 0))
      ((sendFrame c (.siteOff k) s).setCell c { s.cell c with siteOff := SiteSet.add (s.cell c).siteOff k })) :
    siteLimit rnd c k s = if (t.cell c).inRun && SiteSet.size (t.cell c).enabled < st.minSites then drain rnd c t else t := by
  have h2 : raise (.siteOff c k l.id p.number ((s.cell c).consec.toList.getD k 0))
      (modCell c (fun x => { x with siteOff := SiteSet.add x.siteOff k }) (sendFrame c (.siteOff k) s)) = t := by
    rw [ht, modCell_eq, sendFrame_cell]
  unfold siteLimit
  rw [if_neg (by simp [hoff]), hw]
  dsimp only
  rw [h2]

/-! ### What a port sends on an idle line, and the reports queued (R110, R179) -/

theorem sendFrame_idle {c : CellId} {f : PartFrame} {s : State} (hl : (s.cell c).linkUp) (ht : (s.port c).tx = none)
    (hn : (s.port c).txList = []) : (sendFrame c f s).port c = { s.port c with tx := some f } := by
  unfold sendFrame
  rw [if_pos hl, if_pos (by simp [ht, hn]), modPort_port_self]

theorem sendFrame_busy {c : CellId} {f g : PartFrame} {s : State} (hl : (s.cell c).linkUp) (ht : (s.port c).tx = some g)
    (hn : (s.port c).txList = []) : (sendFrame c f s).port c = { s.port c with txList := [f] } := by
  unfold sendFrame
  rw [if_pos hl, if_neg (by simp [ht]), if_pos (by simp [hn]), modPort_port_self]
  simp [hn]

theorem mem_raise {e : QueuedReport} {r : Report} {s : State} (h : e ∈ s.host.reports) : e ∈ (raise r s).host.reports := by
  rw [raise_eq]
  unfold HostLink.joined
  dsimp only
  split
  · exact List.mem_append_left _ h
  · exact h

/-- A report that finds a free place stands in the queue (R179). -/
theorem mem_raise_self {r : Report} {s : State} (h : s.host.reports.length < 64) : ⟨s.floorTime, r⟩ ∈ (raise r s).host.reports := by
  rw [raise_eq]
  unfold HostLink.joined
  rw [if_pos h]
  simp

theorem mem_sendFrame {c : CellId} {f : PartFrame} {e : QueuedReport} {s : State} (h : e ∈ s.host.reports) :
    e ∈ (sendFrame c f s).host.reports := by
  unfold sendFrame
  split
  · split
    · exact h
    · split
      · exact h
      · exact mem_raise h
  · exact h

/-- A frame handed to a port brings at most one report (R110). -/
theorem sendFrame_reports_length (c : CellId) (f : PartFrame) (s : State) :
    (sendFrame c f s).host.reports.length ≤ s.host.reports.length + 1 := by
  unfold sendFrame
  split
  · split
    · simp
    · split
      · simp
      · rw [raise_eq]
        unfold HostLink.joined
        dsimp only
        split <;> simp
  · simp

/-- A drain of a run keeps what a group's counts may touch, and of the port's list adds STOP (R58). -/
theorem drain_countFrame {rnd : Round} {c : CellId} {s : State} (hp : (s.cell c).pendingSlot = none) (hs : (s.cell c).state ≠ .draining) :
    CountFrame c s (drain rnd c s) ∧ (drain rnd c s).cell c = { s.cell c with state := .draining, soakTimer := none, dwellTimer := none }
    ∧ (drain rnd c s).port c = (sendFrame c .stop s).port c ∧ ∀ e ∈ s.host.reports, e ∈ (drain rnd c s).host.reports := by
  rw [drain_eq hp hs]
  refine ⟨CountFrame.setWaiting (CountFrame.raise (CountFrame.setCell ((CountFrame.refl c s).sendFrame .stop) ?_) _) false, ?_, ?_,
    fun e he => ?_⟩
  · rw [sendFrame_cell]
  · simp
  · simp
  · exact mem_raise (s := (sendFrame c .stop s).setCell c _) (mem_sendFrame he)

theorem inRun_ne_draining {x : Cell} (h : x.inRun = true) : x.state ≠ .draining := by
  intro hd
  simp [Cell.inRun, hd] at h

section
variable {rnd : Round} {c : CellId} {v : State} {k : Nat} {ref : PortionRef} {l : Lot} {p : Portion} {st : StepRec} {off : SiteSet}
  {drains : Bool}

/-- A site that reaches the limit is switched off with SITE-OFF and its report, and a run with too few sites left drains (R58). -/
theorem siteLimit_leaves (hoff : SiteSet.has (v.cell c).siteOff k = false) (hw : v.currentWork c = some (ref, l, p, st))
    (hp : (v.cell c).pendingSlot = none) (ho : off = SiteSet.add (v.cell c).siteOff k)
    (hd : drains = ((v.cell c).inRun && SiteSet.size (Cell.enabled { v.cell c with siteOff := off }) < st.minSites)) :
    CountFrame c v (siteLimit rnd c k v) ∧ ((siteLimit rnd c k v).cell c).siteOff = off
    ∧ ((siteLimit rnd c k v).cell c).consec = (v.cell c).consec
    ∧ ((siteLimit rnd c k v).cell c).state = (if drains then .draining else (v.cell c).state)
    ∧ ((v.cell c).linkUp → (v.port c).tx = none → (v.port c).txList = [] → ((siteLimit rnd c k v).port c).tx = some (.siteOff k)
      ∧ ((siteLimit rnd c k v).port c).txList = if drains then [.stop] else [])
    ∧ (v.host.reports.length ≤ 62 → ⟨v.floorTime, .siteOff c k l.id p.number ((v.cell c).consec.toList.getD k 0)⟩
      ∈ (siteLimit rnd c k v).host.reports) := by
  generalize ht : raise (.siteOff c k l.id p.number ((v.cell c).consec.toList.getD k 0))
    ((sendFrame c (.siteOff k) v).setCell c { v.cell c with siteOff := off }) = t
  have frame : CountFrame c v t := by
    rw [← ht]
    refine CountFrame.raise (CountFrame.setCell ((CountFrame.refl c v).sendFrame _) ?_) _
    rw [sendFrame_cell]
  have hcell : t.cell c = { v.cell c with siteOff := off } := by rw [← ht]; simp
  have hport : t.port c = (sendFrame c (.siteOff k) v).port c := by rw [← ht]; simp
  have hreport : v.host.reports.length ≤ 62 →
      ⟨v.floorTime, .siteOff c k l.id p.number ((v.cell c).consec.toList.getD k 0)⟩ ∈ t.host.reports := by
    intro h62
    have time : (sendFrame c (.siteOff k) v).floorTime = v.floorTime := by rw [sendFrame_rest]
    have room := sendFrame_reports_length c (.siteOff k) v
    rw [← ht, ← time]
    exact mem_raise_self (s := (sendFrame c (.siteOff k) v).setCell c _) (by exact lt_of_le_of_lt room (by omega))
  have hdrains : ((t.cell c).inRun && SiteSet.size (t.cell c).enabled < st.minSites) = drains := by
    rw [hcell, hd]
    rfl
  have sent (hl : (v.cell c).linkUp) (hx : (v.port c).tx = none) (hn : (v.port c).txList = []) :
      t.port c = { v.port c with tx := some (.siteOff k) } := hport.trans (sendFrame_idle hl hx hn)
  rw [siteLimit_eq hoff hw (ht.symm.trans (by rw [ho])), hdrains]
  cases drains with
  | false =>
    rw [if_neg (by simp)]
    refine ⟨frame, by rw [hcell], by rw [hcell], by rw [hcell]; rfl, fun hl hx hn => ?_, hreport⟩
    rw [sent hl hx hn]
    exact ⟨rfl, hn⟩
  | true =>
    have hrun : (t.cell c).inRun = true := (Bool.and_eq_true_iff.mp hdrains).1
    obtain ⟨dframe, dcell, dport, dreports⟩ := drain_countFrame (rnd := rnd) (s := t) (by rw [hcell]; exact hp) (inRun_ne_draining hrun)
    rw [if_pos rfl]
    refine ⟨frame.trans dframe, by rw [dcell, hcell], by rw [dcell, hcell], by rw [dcell]; rfl, fun hl hx hn => ?_,
      fun h62 => dreports _ (hreport h62)⟩
    rw [dport, sendFrame_busy (by rw [hcell]; exact hl) (congrArg Port.tx (sent hl hx hn)) (by rw [sent hl hx hn]; exact hn), sent hl hx hn]
    exact ⟨rfl, rfl⟩

end

/-! ### The TALLY report (R126) -/

/-- The counts of a pass in a lot step record (R123). -/
def passCounts (t : LotStepRec) : Pass → Counts
  | .first => t.first
  | .retest => t.retest

theorem tallyReport_eq {c : CellId} {x : LotSlot} {n : Nat} {td : BitVec 16} {v : State} {l : Lot} (hl : v.lot x = some l) :
    tallyReport c x n td v = if (v.cell c).tallyInterval ≠ 0 ∧ v.runGroups.get c % (v.cell c).tallyInterval = 0
      then raise (.tally c l.id l.stepIndex (passOf n) n td (v.runGroups.get c) (v.cell c).runTested
        (passCounts (v.tally x) (passOf n)).sum (passCounts (v.tally x) (passOf n))) v
      else v := by
  unfold tallyReport
  rw [hl]
  dsimp only
  simp only [Bool.and_eq_true, decide_eq_true_eq]
  refine ite_congr rfl (fun _ => ?_) fun _ => rfl
  cases passOf n <;> rfl

theorem tallyReport_cell (c d : CellId) (x : LotSlot) (n : Nat) (td : BitVec 16) (v : State) : (tallyReport c x n td v).cell d = v.cell d := by
  unfold tallyReport
  split
  · rfl
  · dsimp only
    split
    · rw [raise_cell]
    · rfl

theorem tallyReport_port (c d : CellId) (x : LotSlot) (n : Nat) (td : BitVec 16) (v : State) : (tallyReport c x n td v).port d = v.port d := by
  unfold tallyReport
  split
  · rfl
  · dsimp only
    split
    · rw [raise_port]
    · rfl

theorem mem_tallyReport {c : CellId} {x : LotSlot} {n : Nat} {td : BitVec 16} {v : State} {e : QueuedReport} (h : e ∈ v.host.reports) :
    e ∈ (tallyReport c x n td v).host.reports := by
  unfold tallyReport
  split
  · exact h
  · dsimp only
    split
    · exact mem_raise h
    · exact h

theorem raise_host_congr {r : Report} {v w : State} (hh : v.host = w.host) (hf : v.floorTime = w.floorTime) :
    (raise r v).host = (raise r w).host := by
  rw [raise_eq, raise_eq, hh, hf]

end Sys2Proof.CellProofs
end

section
namespace Sys2Proof.CellProofs

open Sys2Proof Sys2Proof.Machine

/-! ### A touchdown (R65) -/

/-- A cell's record after a touchdown (R65). -/
def touchedCell (x : Cell) : Cell := { x with lifetime := satInc 4294967295 x.lifetime }

theorem touchdown_eq (rnd : Round) (c : CellId) (s : State) : touchdown rnd c s
    = if (touchedCell (s.cell c)).due && !(s.cell c).maintenanceDue then setDue rnd c true (s.setCell c (touchedCell (s.cell c)))
      else s.setCell c (touchedCell (s.cell c)) := by
  unfold touchdown
  dsimp only
  rw [modCell_eq, setCell_cell_self]
  rfl

/-- A touchdown that does not reach the contactor limit, or with MAINTENANCE-DUE already set, counts and no more (R65). -/
theorem touchdown_counts {rnd : Round} {c : CellId} {s : State}
    (h : ¬ ((touchedCell (s.cell c)).due = true ∧ (s.cell c).maintenanceDue = false)) :
    touchdown rnd c s = s.setCell c (touchedCell (s.cell c)) := by
  rw [touchdown_eq, if_neg (by simpa using h)]

/-- A touchdown that reaches the limit sets MAINTENANCE-DUE, with its report (R65, R66). -/
theorem touchdown_due {rnd : Round} {c : CellId} {s : State} (h : (touchedCell (s.cell c)).due = true)
    (hm : (s.cell c).maintenanceDue = false) (hp : (s.cell c).pendingSlot = none) :
    touchdown rnd c s = setWaiting c false (raise (.maintenance c (touchedCell (s.cell c)).lifetime (s.cell c).contactorLimit)
      (s.setCell c { touchedCell (s.cell c) with maintenanceDue := true })) := by
  rw [touchdown_eq, if_pos (by simp [h, hm]), setDue_no_pending (by rw [setCell_cell_self]; exact hp),
    updateWaiting_not (by simp [Cell.waits])]
  unfold dueSet
  rw [setCell_cell_self, setCell_setCell, if_pos (by simpa [touchedCell] using hm)]
  rfl

theorem touchedCell_due (x : Cell) : (touchedCell x).due = true
    ↔ (touchedCell x).contactorLimit ≠ 0 ∧ (touchedCell x).contactorLimit ≤ (touchedCell x).lifetime := by
  simp [Cell.due]

/-! ### The judgement of a group (R115) -/

theorem closeGroup_ok {rnd : Round} {c : CellId} {r : IntakeRecord} {rest : List IntakeRecord} {s : State} (hs : r.status = .ok) :
    closeGroup rnd c r (popped c rest s) = if groupComplete r (s.port c).group (s.port c).groupCount
      then completeGroup rnd c (r.flags.getLsbD 0) r.touchdown (s.port c).group (groupTaken c r rest s)
      else if r.isSetup then groupTaken c r rest s else damagedGroup c (groupTaken c r rest s) := by
  unfold closeGroup
  dsimp only
  rw [checkSequence_taken hs, popped_port]

/-- A MALFORMED GROUP-END leaves the sequence alone and damages the portion's group (R115). -/
theorem closeGroup_malformed {rnd : Round} {c : CellId} {r : IntakeRecord} {rest : List IntakeRecord} {s : State} (hs : r.status = .malformed) :
    closeGroup rnd c r (popped c rest s)
      = damagedGroup c (modPort c (fun p => { p with queue := rest, group := [], groupCount := 0 }) s) := by
  unfold closeGroup checkSequence
  dsimp only
  rw [hs]
  dsimp only
  rw [popped, modPort_modPort, if_neg (by simp [groupComplete, hs]), if_neg (by simp [IntakeRecord.isSetup, hs])]
  rfl

theorem groupComplete_of {r : IntakeRecord} {rs : List IntakeRecord} (hs : r.status = .ok) (hn : rs.length = r.site.toNat)
    (h8 : rs.length ≤ 8) (hq : ∀ q ∈ rs, q.status = .ok ∧ q.touchdown = r.touchdown ∧ q.flags = r.flags) (hd : (rs.map (·.site)).Nodup) :
    groupComplete r rs rs.length = true := by
  have status : (rs.all fun q => q.status == .ok) = true := List.all_eq_true.mpr fun q h => by simp [(hq q h).1]
  have number : (rs.all fun q => q.touchdown == r.touchdown) = true := List.all_eq_true.mpr fun q h => by simp [(hq q h).2.1]
  have flags : (rs.all fun q => q.flags.getLsbD 0 == r.flags.getLsbD 0) = true := List.all_eq_true.mpr fun q h => by simp [(hq q h).2.2]
  unfold groupComplete
  rw [status, number, flags]
  simp [hs, ← hn, h8, hd]

theorem damagedGroup_eq {c : CellId} {s : State} {ref : PortionRef} (h : (s.cell c).current = some ref) :
    damagedGroup c s = modPortion ref (fun p => { p with damaged := satInc 255 p.damaged }) s := by
  unfold damagedGroup
  rw [h]

theorem touchdown_no_limit {rnd : Round} {c : CellId} {s : State} (h : (s.cell c).contactorLimit = 0) :
    touchdown rnd c s = s.setCell c (touchedCell (s.cell c)) :=
  touchdown_counts fun hd => ((touchedCell_due _).mp hd.1).1 h

/-- A complete production group above H touches down and raises a CHECK hold (R117). -/
theorem completeGroup_above {rnd : Round} {c : CellId} {td : BitVec 16} {rs : List IntakeRecord} {s : State} {ref : PortionRef} {l : Lot}
    {p : Portion} {st : StepRec} (hw : s.currentWork c = some (ref, l, p, st)) (hh : p.h < rs.length) :
    completeGroup rnd c ((0 : Byte).getLsbD 0) td rs s = mergeHold rnd ref.lot .check ref.portion 0 (touchdown rnd c s) := by
  unfold completeGroup
  rw [if_neg (by decide), hw]
  exact if_neg (by omega)

/-- A complete production group within H enters the result check, touches down and is tallied (R117, R119). -/
theorem completeGroup_within {rnd : Round} {c : CellId} {td : BitVec 16} {rs : List IntakeRecord} {s : State} {ref : PortionRef} {l : Lot}
    {p : Portion} {st : StepRec} (hw : s.currentWork c = some (ref, l, p, st)) (hh : rs.length ≤ p.h) :
    completeGroup rnd c ((0 : Byte).getLsbD 0) td rs s = talliedGroup rnd c td rs
      (touchdown rnd c (modPort c (fun p => { p with resultCheck := crc16From p.resultCheck (rs.flatMap checkedBytes) }) s)) := by
  unfold completeGroup
  rw [if_neg (by decide), hw]
  exact if_pos hh

theorem completeGroup_setup {rnd : Round} {c : CellId} {td : BitVec 16} {rs : List IntakeRecord} {s : State} :
    completeGroup rnd c ((1 : Byte).getLsbD 0) td rs s = touchdown rnd c s := by
  unfold completeGroup
  exact if_pos (by decide)

theorem latchOf_stray (td : BitVec 16) (f : LinkFlags) : latchOf (.stray td) f = f ↔ f.stray = true := by
  cases f
  simp [latchOf]

/-- The flag of a STRAY record, with its report where it was clear (R116). -/
theorem latch_stray {c : CellId} {td : BitVec 16} {s u : State}
    (hu : u = modPort c (fun p => { p with flags := { p.flags with stray := true } }) s) :
    latch c (.stray td) s = if (s.port c).flags.stray then u else raise (.linkError c (.stray td)) u := by
  unfold latch
  by_cases h : (s.port c).flags.stray = true
  · rw [if_pos ((latchOf_stray _ _).mpr h), if_pos h, hu]
    exact (modPort_self (congrArg (fun l => { s.port c with flags := l }) ((latchOf_stray td _).mpr h))).symm
  · rw [if_neg fun e => h ((latchOf_stray _ _).mp e), if_neg h, hu]
    rfl

/-- A record that joins a group: the group stays as it was once it holds eight or more (R114). -/
theorem joinGroup_take_max (r : IntakeRecord) (rs : List IntakeRecord) :
    (if rs.length < 8 then rs ++ [r] else rs) = (rs ++ [r]).take (max 8 rs.length) := by
  split
  · rw [List.take_of_length_le (by simp; omega)]
  · rw [show max 8 rs.length = rs.length by omega, List.take_append_of_le_length (Nat.le_refl _), List.take_length]

/-! ### Records that join the group, and stray ones (R114, R116) -/

section
variable {c : CellId} {r : IntakeRecord} {rest : List IntakeRecord} {s : State} (hqueue : (s.port c).queue = r :: rest)
include hqueue

/-- A record without marks only acts (R114). -/
theorem taken_plain (hm : r.marks = []) : exec (.intakeRecordTaken c) s
    = .next (settleHost (actOnRecord offerRound c r (latchStatus c r (popped c rest s)))) := by
  rw [taken_eq hqueue, hm]
  rfl

theorem taken_result {u : LinkFlags → State} (hm : r.marks = []) (hk : r.kind = .siteResult) (hlen : (s.port c).group.length ≤ 8)
    (hu : u = fun flags => modPort c (fun p => { p with
      queue := rest, group := (p.group ++ [r]).take 8, groupCount := p.groupCount + 1, flags := flags }) s) :
    (r.status = .ok ∨ r.status = .malformed → exec (.intakeRecordTaken c) s = .next (settleHost (u (s.port c).flags)))
    ∧ ∀ flags cause,
      (r.status = .siteBad ∧ flags = { (s.port c).flags with siteBad := true } ∧ cause = .siteBad r.site
        ∨ r.status = .dupSite ∧ flags = { (s.port c).flags with dupSite := true } ∧ cause = .dupSite r.site
        ∨ r.status = .setupLate ∧ flags = { (s.port c).flags with setupLate := true } ∧ cause = .setupLate r.touchdown) →
      exec (.intakeRecordTaken c) s
        = .next (settleHost (if flags = (s.port c).flags then u flags else raise (.linkError c cause) (u flags))) := by
  have joined : (if (s.port c).group.length < 8 then (s.port c).group ++ [r] else (s.port c).group) = ((s.port c).group ++ [r]).take 8 :=
    (joinGroup_take_max r _).trans (by rw [Nat.max_eq_left hlen])
  refine ⟨fun hs => ?_, fun flags cause hs => ?_⟩
  · rw [taken_plain hqueue hm, latchStatus_silent hs, actOnRecord_result hk (by rcases hs with h | h <;> simp [h]), popped,
      modPort_modPort, hu]
    exact congrArg (fun t => Host.Outcome.next (settleHost t)) (modPort_congr (by simp [joinGroup, joined]))
  · obtain ⟨hne, hlatch, hflags⟩ : r.status ≠ .stray ∧ (∀ t, latchStatus c r t = latch c cause t)
        ∧ latchOf cause (s.port c).flags = flags := by
      rcases hs with ⟨h, rfl, rfl⟩ | ⟨h, rfl, rfl⟩ | ⟨h, rfl, rfl⟩
      all_goals exact ⟨by simp [h], fun t => by unfold latchStatus; rw [h], rfl⟩
    rw [taken_plain hqueue hm, hlatch, actOnRecord_result hk hne, modPort_latch (t := u flags) (fun _ _ => rfl), popped_port, hflags]
    rw [hu, popped, modPort_modPort, modPort_port_self]
    exact modPort_congr (by simp [joinGroup, joined, hflags])

theorem taken_stray {u : State} (hm : r.marks = []) (hs : r.status = .stray)
    (hu : u = modPort c (fun p => { p with queue := rest, flags := { p.flags with stray := true } }) s) : exec (.intakeRecordTaken c) s
      = .next (settleHost (if (s.port c).flags.stray then u else raise (.linkError c (.stray r.touchdown)) u)) := by
  have hlatch : latchStatus c r (popped c rest s) = latch c (.stray r.touchdown) (popped c rest s) := by
    unfold latchStatus
    rw [hs]
  have hact (t : State) : actOnRecord offerRound c r t = t := if_pos hs
  rw [taken_plain hqueue hm, hlatch, hact, latch_stray (u := u) (by rw [hu, popped, modPort_modPort]), popped_port]

/-! ### Groups that end (R115, R117) -/

theorem taken_groupEnd (hm : r.marks = []) (hk : r.kind = .groupEnd) (hs : r.status = .ok) : exec (.intakeRecordTaken c) s
    = .next (settleHost (if groupComplete r (s.port c).group (s.port c).groupCount
      then completeGroup offerRound c (r.flags.getLsbD 0) r.touchdown (s.port c).group (groupTaken c r rest s)
      else if r.isSetup then groupTaken c r rest s else damagedGroup c (groupTaken c r rest s))) := by
  rw [taken_plain hqueue hm, latchStatus_silent (.inl hs), actOnRecord_groupEnd hk (by simp [hs]), closeGroup_ok hs]

/-- A GROUP-END whose site count differs from the results' (R115). -/
theorem taken_mismatch (hm : r.marks = []) (hk : r.kind = .groupEnd) (hs : r.status = .ok) (hne : (s.port c).groupCount ≠ r.site.toNat) :
    (r.flags = 1 → exec (.intakeRecordTaken c) s = .next (settleHost (groupTaken c r rest s)))
    ∧ ∀ ref, r.flags = 0 → (s.cell c).current = some ref → exec (.intakeRecordTaken c) s
      = .next (settleHost (modPortion ref (fun p => { p with damaged := satInc 255 p.damaged }) (groupTaken c r rest s))) := by
  refine ⟨fun hf => ?_, fun ref hf href => ?_⟩
  · rw [taken_groupEnd hqueue hm hk hs, if_neg (by simp [groupComplete, hne]), if_pos (by simp [IntakeRecord.isSetup, hs, hf])]
  · rw [taken_groupEnd hqueue hm hk hs, if_neg (by simp [groupComplete, hne]), if_neg (by simp [IntakeRecord.isSetup, hf]),
      damagedGroup_eq (by rw [groupTaken_cell]; exact href)]

theorem taken_malformed {ref : PortionRef} (hm : r.marks = []) (hk : r.kind = .groupEnd) (hs : r.status = .malformed)
    (href : (s.cell c).current = some ref) : exec (.intakeRecordTaken c) s
      = .next (settleHost (modPortion ref (fun p => { p with damaged := satInc 255 p.damaged })
        (modPort c (fun p => { p with queue := rest, group := [], groupCount := 0 }) s))) := by
  rw [taken_plain hqueue hm, latchStatus_silent (.inr hs), actOnRecord_groupEnd hk (by simp [hs]), closeGroup_malformed hs, damagedGroup_eq]
  rw [modPort_cell]
  exact href

/-- A group without a fault goes on as a complete one (R115). -/
theorem taken_complete {rs : List IntakeRecord} {f : Byte} (hm : r.marks = []) (hk : r.kind = .groupEnd) (hs : r.status = .ok)
    (hf : r.flags = f) (hg : (s.port c).group = rs) (hcount : (s.port c).groupCount = rs.length) (hn : rs.length = r.site.toNat)
    (h8 : rs.length ≤ 8) (hq : ∀ q ∈ rs, q.status = .ok ∧ q.touchdown = r.touchdown ∧ q.flags = f) (hd : (rs.map (·.site)).Nodup) :
    exec (.intakeRecordTaken c) s
      = .next (settleHost (completeGroup offerRound c (f.getLsbD 0) r.touchdown rs (groupTaken c r rest s))) := by
  rw [taken_groupEnd hqueue hm hk hs, hg, hcount, if_pos (groupComplete_of hs hn h8 (fun q h => hf ▸ hq q h) hd), hf]

/-! ### Marks (R114, R118, R120) -/

theorem taken_jam (hm : r.marks = [.jamFollows]) (hk : r.kind = .siteResult) (hs : r.status = .ok) : exec (.intakeRecordTaken c) s
    = .next (settleHost (modPort c (fun p => { p with queue := rest, group := [], groupCount := 0 }) s)) := by
  rw [taken_eq hqueue, hm, latchStatus_silent (.inl hs), actOnRecord_result hk (by simp [hs]), popped, modPort_modPort]
  change Host.Outcome.next (settleHost (modPort c Port.dropGroup _)) = _
  rw [modPort_modPort]
  rfl

/-- Behind the record the held RUN-END is handed on: the group, with the record in it, is dropped and judged (R57, R120). -/
theorem taken_runEnd {ref : PortionRef} {e : HeldRunEnd} {damaged : Bool} {x : Cell} (hm : r.marks = [.endFollows])
    (hk : r.kind = .siteResult) (hs : r.status = .ok) (he : (s.port c).heldRunEnd = some e) (href : (s.cell c).current = some ref)
    (hends : (s.cell c).endsRun) (ht : e.tested.toNat = (s.cell c).runTested) (hcheck : e.check = (s.port c).resultCheck)
    (hdam : damaged = !(((s.port c).group ++ [r]).take (max 8 (s.port c).group.length)).all
      (fun q => q.status ≠ .malformed && q.flags.getLsbD 0))
    (hx : x = { s.cell c with soakTimer := none, dwellTimer := none, purgeTimer := some 600, state := .purging }) :
    exec (.intakeRecordTaken c) s = .next (settleHost (setWaiting c false
      (raise (.cellState c (s.cell c).state .purging x.pause x.fault)
        ((sendFrame c .purge (modPortion ref (fun p => if damaged then { p with damaged := satInc 255 p.damaged } else p)
          (modPort c (fun p => { p with queue := rest, heldRunEnd := none, group := [], groupCount := 0 }) s))).setCell c x)))) := by
  generalize hj : modPort c (joinGroup r) (popped c rest s) = j
  have hjp : j.port c = joinGroup r { s.port c with queue := rest } := by rw [← hj, modPort_port_self, popped_port]
  have hjc : j.cell c = s.cell c := by rw [← hj]; rfl
  have handed : exec (.intakeRecordTaken c) s = .next (settleHost (runEndHanded offerRound c e j)) := by
    rw [taken_eq hqueue, hm, latchStatus_silent (.inl hs), actOnRecord_result hk (by simp [hs]), hj]
    change Host.Outcome.next (settleHost (actOnMark offerRound c j .endFollows)) = _
    unfold actOnMark
    dsimp only
    rw [hjp]
    dsimp only [joinGroup]
    rw [he]
  have hd : partialDamage (j.port c) = damaged := by
    have counted : ((joinGroup r { s.port c with queue := rest }).groupCount != 0) = true := by simp [joinGroup]
    rw [hjp, hdam, ← joinGroup_take_max, partialDamage, counted, Bool.true_and]
    rfl
  have hg : groupEnded c ref (partialDamage (j.port c)) j = modPortion ref
      (fun p => if damaged then { p with damaged := satInc 255 p.damaged } else p)
      (modPort c (fun p => { p with queue := rest, heldRunEnd := none, group := [], groupCount := 0 }) s) := by
    rw [hd, groupEnded, ← hj, popped, modPort_modPort, modPort_modPort]
    rfl
  rw [handed, runEndHanded_agrees (x := x) (by rw [hjc]; exact hends) (by rw [hjc]; exact href) hg.symm (by rw [hjc]; exact ht)
    (by rw [hjp]; exact hcheck) (by rw [hjc]; exact hx), hjc]

end

/-! ### What a complete group brings (R65, R117) -/

section
variable {c : CellId} {r : IntakeRecord} {rest rs : List IntakeRecord} {s : State}

/-- A complete setup group only touches down (R117). -/
theorem completeGroup_setup_leaves {due : Prop} (hdue : due = ((touchedCell (s.cell c)).contactorLimit ≠ 0
      ∧ (touchedCell (s.cell c)).contactorLimit ≤ (touchedCell (s.cell c)).lifetime ∧ (s.cell c).maintenanceDue = false)) :
    (¬ due → completeGroup offerRound c ((1 : Byte).getLsbD 0) r.touchdown rs (groupTaken c r rest s)
      = (groupTaken c r rest s).setCell c (touchedCell (s.cell c)))
    ∧ (due → (s.cell c).pendingSlot = none → completeGroup offerRound c ((1 : Byte).getLsbD 0) r.touchdown rs (groupTaken c r rest s)
      = setWaiting c false (raise (.maintenance c (touchedCell (s.cell c)).lifetime (touchedCell (s.cell c)).contactorLimit)
        ((groupTaken c r rest s).setCell c { touchedCell (s.cell c) with maintenanceDue := true }))) := by
  have hc := groupTaken_cell c r rest s c
  refine ⟨fun hn => ?_, fun hy hp => ?_⟩
  · rw [completeGroup_setup, touchdown_counts, hc]
    rw [touchedCell_due, hc, and_assoc, ← hdue]
    exact hn
  · rw [hdue] at hy
    obtain ⟨hlim, hreach, hm⟩ := hy
    rw [completeGroup_setup, touchdown_due (by rw [hc]; exact (touchedCell_due _).mpr ⟨hlim, hreach⟩) (by rw [hc]; exact hm)
      (by rw [hc]; exact hp), hc]
    rfl

/-- A complete production group above H touches down and raises a CHECK hold, none for a lot in a directly set state (R28, R117). -/
theorem completeGroup_above_leaves {ref : PortionRef} {l : Lot} {p : Portion} {st : StepRec} (hw : s.currentWork c = some (ref, l, p, st))
    (hh : p.h < rs.length) (hlim : (s.cell c).contactorLimit = 0) :
    (l.state.direct → completeGroup offerRound c ((0 : Byte).getLsbD 0) r.touchdown rs (groupTaken c r rest s)
      = (groupTaken c r rest s).setCell c (touchedCell (s.cell c)))
    ∧ (l.state.direct = false → l.pendingCells = [] →
      ∃ m l', completeGroup offerRound c ((0 : Byte).getLsbD 0) r.touchdown rs (groupTaken c r rest s) = m
      ∧ HoldFrame ((groupTaken c r rest s).setCell c (touchedCell (s.cell c))) m ∧ m.lot ref.lot = some l' ∧ l'.heldFor .check
      ∧ l'.portions = l.portions ∧ ∀ y, y ≠ ref.lot → m.lot y = s.lot y) := by
  have hc := groupTaken_cell c r rest s c
  obtain ⟨-, hl, -, -⟩ := currentWork_some hw
  have above : completeGroup offerRound c ((0 : Byte).getLsbD 0) r.touchdown rs (groupTaken c r rest s)
      = mergeHold offerRound ref.lot .check ref.portion 0 ((groupTaken c r rest s).setCell c (touchedCell (s.cell c))) := by
    rw [completeGroup_above ((groupTaken_currentWork ..).trans hw) hh, touchdown_no_limit (by rw [hc]; exact hlim), hc]
  have hgl (y : LotSlot) : ((groupTaken c r rest s).setCell c (touchedCell (s.cell c))).lot y = s.lot y := by
    rw [groupTaken_rest]
    rfl
  refine ⟨fun hd => by rw [above, mergeHold_direct ((hgl _).trans hl) hd], fun hd hpc => ?_⟩
  obtain ⟨frame, hother, l', hl', hheld, -, hportions⟩ :=
    mergeHold_raised (rnd := offerRound) (r := .check) (n := ref.portion) (d := 0) ((hgl _).trans hl) hd hpc
  exact ⟨_, l', above, frame, hl', hheld, hportions, fun y hy => (hother y hy).trans (hgl y)⟩

/-- A group that is to be tallied: in the result check, and its touchdown counted (R117, R119). -/
def checkedGroup (c : CellId) (r : IntakeRecord) (rest rs : List IntakeRecord) (s : State) : State :=
  (modPort c (fun p => { p with resultCheck := crc16From p.resultCheck (rs.flatMap checkedBytes) }) (groupTaken c r rest s)).setCell c
    (touchedCell (s.cell c))

theorem checkedGroup_port : (checkedGroup c r rest rs s).port c = { s.port c with
    queue := rest, group := [], groupCount := 0, lastTouchdown := some r.touchdown, flags := sequenced r.touchdown (s.port c)
    resultCheck := crc16From (s.port c).resultCheck (rs.flatMap checkedBytes) } := by
  rw [checkedGroup, setCell_port, modPort_port_self, groupTaken_port]

theorem checkedGroup_cell : (checkedGroup c r rest rs s).cell c = touchedCell (s.cell c) := by
  rw [checkedGroup, setCell_cell_self]

theorem checkedGroup_others {d : CellId} (hd : d ≠ c) :
    (checkedGroup c r rest rs s).cell d = s.cell d ∧ (checkedGroup c r rest rs s).port d = s.port d := by
  rw [checkedGroup, setCell_cell, if_neg (Ne.symm hd), modPort_cell, setCell_port, modPort_port, if_neg (Ne.symm hd)]
  exact ⟨groupTaken_cell c r rest s d, groupTaken_port_other c r rest s hd⟩

theorem checkedGroup_rest : checkedGroup c r rest rs s = { s with
    cells := (checkedGroup c r rest rs s).cells, ports := (checkedGroup c r rest rs s).ports, host := (groupTaken c r rest s).host } := by
  unfold checkedGroup
  rw [groupTaken_rest]
  rfl

theorem checkedGroup_lot (y : LotSlot) : (checkedGroup c r rest rs s).lot y = s.lot y := by rw [checkedGroup_rest]; rfl
theorem checkedGroup_tally (y : LotSlot) : (checkedGroup c r rest rs s).tally y = s.tally y := by rw [checkedGroup_rest]; rfl
theorem checkedGroup_floorTime : (checkedGroup c r rest rs s).floorTime = s.floorTime := by rw [checkedGroup_rest]

theorem checkedGroup_currentWork : (checkedGroup c r rest rs s).currentWork c = s.currentWork c := by
  refine currentWork_congr ?_ ?_ ?_
  · rw [checkedGroup_cell]
    rfl
  all_goals rw [checkedGroup_rest]

/-- The group counted: the state in which its sites are looked at (R125, R126). -/
def countedTaken (c : CellId) (r : IntakeRecord) (rest rs : List IntakeRecord) (ref : PortionRef) (p : Portion) (s : State) : State :=
  countedGroup c ref (passOf p.number) rs (checkedGroup c r rest rs s)

/-- A tallied group: its sites looked at and its TALLY report sent (R126, R127). -/
def talliedTaken (c : CellId) (r : IntakeRecord) (rest rs : List IntakeRecord) (ref : PortionRef) (p : Portion) (st : StepRec) (s : State) :
    State :=
  tallyReport c ref.lot p.number r.touchdown
    (rs.foldl (countSite offerRound c st.limits.consecFail) (countedTaken c r rest rs ref p s))

variable {ref : PortionRef} {l : Lot} {p : Portion} {st : StepRec}

theorem countedTaken_cell : (countedTaken c r rest rs ref p s).cell c
    = { touchedCell (s.cell c) with runTested := (s.cell c).runTested + rs.length } := by
  rw [countedTaken, countedGroup_cell, checkedGroup_cell]
  rfl

theorem countedTaken_lot (hl : s.lot ref.lot = some l) : (countedTaken c r rest rs ref p s).lot ref.lot
    = some (l.modPortion ref.portion (tallyPortion rs.length (checkedGroup c r rest rs s).floorTime)) :=
  (countedGroup_lot ((checkedGroup_lot _).trans hl) ref.lot).trans (if_pos rfl)

theorem countedTaken_host : (countedTaken c r rest rs ref p s).host = (groupTaken c r rest s).host
    ∧ (countedTaken c r rest rs ref p s).floorTime = s.floorTime := by
  unfold countedTaken
  rw [countedGroup_host, countedGroup_floorTime, checkedGroup_rest]
  exact ⟨rfl, rfl⟩

theorem completeGroup_tallied (hw : s.currentWork c = some (ref, l, p, st)) (hh : rs.length ≤ p.h) (hlim : (s.cell c).contactorLimit = 0) :
    completeGroup offerRound c ((0 : Byte).getLsbD 0) r.touchdown rs (groupTaken c r rest s)
      = if passOf p.number = .first then evaluate offerRound ref.lot p.number false (talliedTaken c r rest rs ref p st s)
        else talliedTaken c r rest rs ref p st s := by
  have hc := groupTaken_cell c r rest s c
  rw [completeGroup_within ((groupTaken_currentWork ..).trans hw) hh, touchdown_no_limit (by rw [modPort_cell, hc]; exact hlim),
    modPort_cell, hc]
  exact talliedGroup_eq (checkedGroup_currentWork.trans hw) rfl

end

/-! ### What a tallied group leaves (R117, R125 to R127) -/

section
variable {c : CellId} {r : IntakeRecord} {rest rs : List IntakeRecord} {s u : State} {ref : PortionRef} {l : Lot} {p : Portion} {st : StepRec}

/-- The frame of the sites' counts and the report after a group's tally. -/
abbrev TallyFrame (c : CellId) (r : IntakeRecord) (rest rs : List IntakeRecord) (ref : PortionRef) (p : Portion) (s u : State) : Prop :=
  CountFrame c (countedTaken c r rest rs ref p s) u

/-- The tally, the portion, the run's counts and the port after a tallied group, and what it leaves alone (R24, R117, R119, R125, R126). -/
theorem tallied_leaves (frame : TallyFrame c r rest rs ref p s u) (hl : s.lot ref.lot = some l)
    (hbins : ∀ q ∈ rs, 1 ≤ q.bin.toNat ∧ q.bin.toNat ≤ 16) :
    (passOf p.number = .first → u.tally ref.lot = { s.tally ref.lot with first := (u.tally ref.lot).first }
      ∧ ∀ b, (u.tally ref.lot).first.bin b = (s.tally ref.lot).first.bin b + (rs.filter fun q => q.bin.toNat = b).length)
    ∧ (passOf p.number = .retest → u.tally ref.lot = { s.tally ref.lot with retest := (u.tally ref.lot).retest }
      ∧ ∀ b, (u.tally ref.lot).retest.bin b = (s.tally ref.lot).retest.bin b + (rs.filter fun q => q.bin.toNat = b).length)
    ∧ u.lot ref.lot = some (l.modPortion ref.portion fun p => { p with
        h := p.h - rs.length, t := p.t + rs.length, firstProduction := some (p.firstProduction.getD s.floorTime) })
    ∧ (u.cell c).runTested = (s.cell c).runTested + rs.length ∧ u.runGroups.get c = satInc 65535 (s.runGroups.get c)
    ∧ (u.cell c).lifetime = (touchedCell (s.cell c)).lifetime
    ∧ (u.port c).resultCheck = crc16From (s.port c).resultCheck (rs.flatMap fun q => [q.site, q.bin, q.flags])
    ∧ (u.port c).lastTouchdown = some r.touchdown ∧ (u.port c).group = [] ∧ (u.port c).queue = rest
    ∧ (u.port c).flags = sequenced r.touchdown (s.port c)
    ∧ (∀ y, y ≠ ref.lot → u.lot y = s.lot y ∧ u.tally y = s.tally y) ∧ (∀ d, d ≠ c → u.cell d = s.cell d ∧ u.port d = s.port d)
    ∧ u.waitList = s.waitList ∧ u.catalog = s.catalog ∧ u.products = s.products ∧ u.baselines = s.baselines
    ∧ u.floorTime = s.floorTime := by
  obtain ⟨hfirst, hretest⟩ := counted_tally frame hbins
  obtain ⟨hlot, hothers⟩ := counted_lots frame ((checkedGroup_lot _).trans hl)
  obtain ⟨htested, hgroups, hlife, hcells, hport⟩ := counted_cells frame
  have hrest := counted_rest frame
  rw [checkedGroup_port] at hport
  rw [checkedGroup_tally] at hfirst hretest
  rw [checkedGroup_cell] at htested hlife
  refine ⟨hfirst, hretest, ?_, htested, ?_, hlife, ?_, ?_, ?_, ?_, ?_, fun y hy => ?_, fun d hd => ?_, ?_, ?_, ?_, ?_, ?_⟩
  · rw [hlot, checkedGroup_floorTime]
  · rw [hgroups, checkedGroup_rest]
  · rw [hport]
    rfl
  · rw [hport]
  · rw [hport]
  · rw [hport]
  · rw [hport]
  · exact ⟨(hothers y hy).1.trans (checkedGroup_lot y), (hothers y hy).2.trans (checkedGroup_tally y)⟩
  · exact ⟨(hcells d hd).1.trans (checkedGroup_others hd).1, (hcells d hd).2.trans (checkedGroup_others hd).2⟩
  all_goals rw [hrest, checkedGroup_rest]

theorem countedTaken_siteCount (q : IntakeRecord) (k : Fin 8) :
    siteCount ((countedTaken c r rest rs ref p s).cell c) q k = siteCount (s.cell c) q k := by
  rw [countedTaken_cell]
  rfl

/-- No site reaches the limit: the counts of the group's sites, the cell else as it was, and the TALLY report at its interval (R126, R127). -/
theorem tallied_quiet (hl : s.lot ref.lot = some l) (hnodup : (rs.map (·.site)).Nodup)
    (hquiet : ∀ q ∈ rs, ∀ k : Fin 8, q.site.toNat = k.val → ¬ (st.limits.consecFail ≠ 0
      ∧ siteCount (s.cell c) q k = st.limits.consecFail ∧ (s.cell c).consec.get k < siteCount (s.cell c) q k))
    (hu : u = talliedTaken c r rest rs ref p st s) :
    TallyFrame c r rest rs ref p s u ∧ (u.cell c).state = (s.cell c).state ∧ (u.cell c).siteOff = (s.cell c).siteOff
    ∧ (∀ k : Fin 8, (u.cell c).consec.get k
      = (rs.find? fun q => q.site.toNat = k.val).elim ((s.cell c).consec.get k) fun q => siteCount (s.cell c) q k)
    ∧ ∀ counts, counts = passCounts (u.tally ref.lot) (passOf p.number) →
      u.host = (if (s.cell c).tallyInterval ≠ 0 ∧ u.runGroups.get c % (s.cell c).tallyInterval = 0 then
        raise (.tally c l.id l.stepIndex (passOf p.number) p.number r.touchdown (u.runGroups.get c) (u.cell c).runTested
          counts.sum counts) (groupTaken c r rest s) else groupTaken c r rest s).host := by
  subst hu
  unfold talliedTaken
  generalize hw : countedTaken c r rest rs ref p s = w
  have hwc : w.cell c = { touchedCell (s.cell c) with runTested := (s.cell c).runTested + rs.length } := hw ▸ countedTaken_cell
  have hsite (q : IntakeRecord) (k : Fin 8) : siteCount (w.cell c) q k = siteCount (s.cell c) q k := hw ▸ countedTaken_siteCount q k
  obtain ⟨v, hv, hget⟩ := countSites_quiet (rnd := offerRound) (c := c) (limit := st.limits.consecFail) rs hnodup w (by
    intro q hq k hk
    rw [hsite, hwc]
    exact hquiet q hq k hk)
  rw [hv]
  generalize hx : w.setCell c { w.cell c with consec := v } = x
  have frame : CountFrame c w x := hx ▸ (CountFrame.refl c w).setCell rfl
  have hxc : x.cell c = { touchedCell (s.cell c) with runTested := (s.cell c).runTested + rs.length, consec := v } := by
    rw [← hx, setCell_cell_self, hwc]
  refine ⟨(congrArg (CountFrame c · _) hw).mpr (frame.tallyReport ..), ?_, ?_, fun k => ?_, fun counts hcounts => ?_⟩
  · rw [tallyReport_cell, hxc]
    rfl
  · rw [tallyReport_cell, hxc]
    rfl
  · rw [tallyReport_cell, hxc, hget, hwc]
    cases rs.find? fun q => q.site.toNat = k.val <;> rfl
  · obtain ⟨hhost, htime⟩ := countedTaken_host (c := c) (r := r) (rest := rest) (rs := rs) (ref := ref) (p := p) (s := s)
    have shown := (CountFrame.refl c x).tallyReport ref.lot p.number r.touchdown
    rw [shown.tally] at hcounts
    have hinterval : (x.cell c).tallyInterval = (s.cell c).tallyInterval := by
      rw [hxc]
      rfl
    have hxh : x.host = (groupTaken c r rest s).host := by
      rw [← hx, ← hhost, hw]
      rfl
    have hxt : x.floorTime = (groupTaken c r rest s).floorTime := by
      rw [groupTaken_rest, ← hx]
      exact (congrArg State.floorTime hw).symm.trans htime
    rw [shown.runGroups, tallyReport_cell, tallyReport_eq ((frame.lot _).trans (hw ▸ countedTaken_lot hl)), ← hcounts, hinterval]
    split
    · exact raise_host_congr hxh hxt
    · exact hxh

/-- A group of one whose site reaches the limit: the site is switched off, and a run with too few sites left drains (R58, R127). -/
theorem tallied_siteOff {q : IntakeRecord} {k : Fin 8} {off : SiteSet} {drains : Bool} (hw : s.currentWork c = some (ref, l, p, st))
    (hrs : rs = [q]) (hk : q.site.toNat = k.val) (hlim0 : st.limits.consecFail ≠ 0) (hlim255 : st.limits.consecFail ≤ 255)
    (hbin : q.bin ≠ 1) (hcons : (s.cell c).consec.get k + 1 = st.limits.consecFail)
    (hoff : SiteSet.has (s.cell c).siteOff k.val = false) (hpend : (s.cell c).pendingSlot = none)
    (ho : off = SiteSet.add (s.cell c).siteOff k.val)
    (hdrains : drains = ((s.cell c).inRun && SiteSet.size (Cell.enabled { s.cell c with siteOff := off }) < st.minSites))
    (hu : u = talliedTaken c r rest rs ref p st s) :
    TallyFrame c r rest rs ref p s u ∧ (u.cell c).siteOff = off ∧ (u.cell c).consec.get k = st.limits.consecFail
    ∧ (u.cell c).state = (if drains then .draining else (s.cell c).state)
    ∧ ((s.cell c).linkUp → (s.port c).tx = none → (s.port c).txList = [] → (u.port c).tx = some (.siteOff k.val)
      ∧ (u.port c).txList = if drains then [.stop] else [])
    ∧ ((groupTaken c r rest s).host.reports.length ≤ 62 →
      ⟨s.floorTime, .siteOff c k.val l.id p.number st.limits.consecFail⟩ ∈ u.host.reports) := by
  subst hu
  unfold talliedTaken
  have hnew : siteCount (s.cell c) q k = st.limits.consecFail := by
    unfold siteCount satInc
    rw [if_neg hbin, if_pos (by omega), hcons]
  generalize hx : countedTaken c r rest rs ref p s = w
  have hwc : w.cell c = { touchedCell (s.cell c) with runTested := (s.cell c).runTested + rs.length } := hx ▸ countedTaken_cell
  have hsite : siteCount (w.cell c) q k = siteCount (s.cell c) q k := hx ▸ countedTaken_siteCount q k
  have hold : (w.cell c).consec.get k = (s.cell c).consec.get k := by
    rw [hwc]
    rfl
  generalize hv : w.setCell c (siteCounted (w.cell c) q k) = v
  have hvc : v.cell c = siteCounted (w.cell c) q k := by rw [← hv, setCell_cell_self]
  have hvs : v.cell c = { s.cell c with
      lifetime := (touchedCell (s.cell c)).lifetime, runTested := (s.cell c).runTested + rs.length, consec := (v.cell c).consec } := by
    rw [hvc, hwc]
    rfl
  have hsites : rs.foldl (countSite offerRound c st.limits.consecFail) w = siteLimit offerRound c k.val v := by
    rw [hrs, List.foldl_cons, List.foldl_nil, countSite_eq hk, if_pos ⟨hlim0, hsite.trans hnew, by omega⟩, hv]
  have hvw : v.currentWork c = some (ref, l.modPortion ref.portion (tallyPortion rs.length (checkedGroup c r rest rs s).floorTime),
      tallyPortion rs.length (checkedGroup c r rest rs s).floorTime p, st) := by
    have counted := countedGroup_work (pass := passOf p.number) (rs := rs) (checkedGroup_currentWork (r := r) (rest := rest) (rs := rs).trans hw)
    rw [← counted]
    change _ = (countedTaken c r rest rs ref p s).currentWork c
    rw [hx]
    refine currentWork_congr ?_ ?_ ?_
    · rw [hvc]
      rfl
    all_goals rw [← hv]; rfl
  have hlimit : (v.cell c).consec.toList.getD k.val 0 = st.limits.consecFail := by
    rw [hvc, ← hnew, ← hsite]
    simp [siteCounted, List.getD]
  have hvp : v.port c = (checkedGroup c r rest rs s).port c := by
    rw [← hv, setCell_port, ← hx, countedTaken, countedGroup_port]
  have hvh : v.host = (groupTaken c r rest s).host ∧ v.floorTime = s.floorTime := by
    have kept : v.host = w.host ∧ v.floorTime = w.floorTime := by
      rw [← hv]
      exact ⟨rfl, rfl⟩
    rw [kept.1, kept.2, ← hx]
    exact countedTaken_host
  obtain ⟨hframe, hset, hconsec, hstate, hsent, hreport⟩ := siteLimit_leaves (rnd := offerRound) (off := off) (drains := drains)
    (by rw [hvs]; exact hoff) hvw (by rw [hvs]; exact hpend) (by rw [hvs]; exact ho) (by rw [hvs]; exact hdrains)
  have frame : CountFrame c w (siteLimit offerRound c k.val v) :=
    CountFrame.trans (hv ▸ (CountFrame.refl c w).setCell rfl) hframe
  rw [hsites]
  refine ⟨(congrArg (CountFrame c · _) hx).mpr (frame.tallyReport ..), ?_, ?_, ?_, fun hlink htx hlist => ?_, fun h62 => mem_tallyReport ?_⟩
  · rw [tallyReport_cell, hset]
  · rw [tallyReport_cell, hconsec, hvc, ← hnew, ← hsite]
    exact get_set_same _ _ _
  · rw [tallyReport_cell, hstate, hvs]
  · rw [tallyReport_port]
    exact hsent (by rw [hvs]; exact hlink) (by rw [hvp, checkedGroup_port]; exact htx) (by rw [hvp, checkedGroup_port]; exact hlist)
  · rw [← hlimit, ← hvh.2]
    exact hreport (by rw [hvh.1]; exact h62)

end

/-- Settles O41, from the lemmas above: each kind of record, the complete groups by their kind and size, and the two marks. -/
theorem recordsAreTakenAndTallied : Obligations.RecordsAreTakenAndTallied := by
  unfold Obligations.RecordsAreTakenAndTallied
  intro s c r rest hqueue rs complete latched closed taken touched hlatched hcomplete hclosed htaken htouched
  obtain rfl : latched = sequenced r.touchdown (s.port c) := hlatched
  obtain rfl : taken = groupTaken c r rest s := by
    rw [htaken, hclosed]
    rfl
  obtain rfl : touched = touchedCell (s.cell c) := htouched
  have completes (f : Byte) (h : complete f) : exec (.intakeRecordTaken c) s
      = .next (settleHost (completeGroup offerRound c (f.getLsbD 0) r.touchdown rs (groupTaken c r rest s))) := by
    rw [hcomplete] at h
    obtain ⟨hm, hk, hs, hf, hg, hcount, hn, h8, hq, hd⟩ := h
    exact taken_complete hqueue hm hk hs hf hg hcount hn h8 hq hd
  refine ⟨fun u hm hk => taken_result hqueue hm hk, fun u hm hs => taken_stray hqueue hm hs, ?_, fun ref l p st h0 hw hh hlim => ?_,
    fun due h1 hdue => ?_, taken_mismatch hqueue, fun ref => taken_malformed hqueue, taken_jam hqueue,
    fun ref e damaged x => taken_runEnd hqueue⟩
  · intro ref l p st count tallied h0 hw hh hbins hlim hcount htallied
    obtain ⟨-, hl, -, -⟩ := currentWork_some hw
    have tallies (u : State) (hu : u = talliedTaken c r rest rs ref p st s) (frame : TallyFrame c r rest rs ref p s u) : tallied u := by
      rw [htallied]
      exact ⟨(completes 0 h0).trans (by rw [completeGroup_tallied hw hh hlim, hu]), tallied_leaves frame hl hbins⟩
    have hnodup : (rs.map (·.site)).Nodup := by
      rw [hcomplete] at h0
      obtain ⟨-, -, -, -, -, -, -, -, -, hd⟩ := h0
      exact hd
    have hsite (q : IntakeRecord) (k : Fin 8) : siteCount (s.cell c) q k = count q k := by
      rw [hcount]
      rfl
    refine ⟨fun hquiet => ?_, fun q k off drains hrs hk hlim0 hlim255 hbin hcons hoff hpend ho hdrains => ?_⟩
    · obtain ⟨frame, hstate, hset, hconsec, hhost⟩ := tallied_quiet (r := r) (rest := rest) (p := p) hl hnodup
        (fun q hq k hk => by rw [hsite]; exact hquiet q hq k hk) rfl
      refine ⟨_, tallies _ rfl frame, hstate, hset, fun k => ?_, fun counts hcounts => hhost counts ?_⟩
      · rw [hconsec]
        cases rs.find? fun q => q.site.toNat = k.val with
        | none => rfl
        | some q => exact hsite q k
      · rw [hcounts]
        cases passOf p.number <;> rfl
    · obtain ⟨frame, hleaves⟩ := tallied_siteOff (r := r) (rest := rest) hw hrs hk hlim0 hlim255 hbin hcons hoff hpend ho hdrains rfl
      exact ⟨_, tallies _ rfl frame, hleaves⟩
  · obtain ⟨hdirect, hheld⟩ := completeGroup_above_leaves (r := r) (rest := rest) hw hh hlim
    refine ⟨fun hd => by rw [completes 0 h0, hdirect hd], fun hd hpc => ?_⟩
    obtain ⟨m, l', hm, frame, hl', hcheck, hportions, hother⟩ := hheld hd hpc
    have hcell := frame.cell c
    have hport := frame.port c
    rw [setCell_cell_self] at hcell
    rw [setCell_port, groupTaken_port] at hport
    refine ⟨settleHost m, l', by rw [completes 0 h0, hm], hl', hcheck, hportions, by rw [settleHost_cell, hcell],
      by rw [settleHost_cell, hcell]; rfl, by rw [settleHost_port, hport], by rw [settleHost_port, hport],
      by rw [settleHost_port, hport], frame.tallies.trans ?_, frame.runGroups.trans ?_, hother⟩
    all_goals rw [groupTaken_rest]; rfl
  · obtain ⟨hcounts, hreaches⟩ := completeGroup_setup_leaves (r := r) (rest := rest) (rs := rs) hdue
    rw [completes 1 h1]
    exact ⟨fun hn => by rw [hcounts hn], fun hy hp => by rw [hreaches hy hp]⟩

end Sys2Proof.CellProofs
end
